-- ==== Sys2Proof/Word.lean ====
section
/-! DEFINITION. The word types of the link block (`00_scope.md` R8): unsigned, of a fixed width. -/

namespace Sys2Proof

/-- A byte: an unsigned integer 0 to 255 (R8). The unit of access of every byte store (R54). -/
abbrev Byte := BitVec 8

/-- `u16` (R8). -/
abbrev U16 := BitVec 16

/-- `u32` (R8). The three float fields of a Parameter Update are carried as such words (R96). -/
abbrev U32 := BitVec 32

end Sys2Proof
end

