-- ==== Sys2Proof/Config.lean ====
section
/-! DEFINITION. The constants of `00_scope.md` R7: the fixed ones as definitions, the four parameters of the block as the fields of
`Config`, each with the legal range the spec gives it. -/

namespace Sys2Proof

/-- The parameters of one instance of the block that R7 leaves open, with their defaults and their legal ranges
(`92_eei_decisions.md`, "Parameters left open"). A configuration outside the ranges is rejected outright (U10, R283): it cannot be
built. No operation changes a parameter (R32 (e)). -/
structure Config where
  /-- `SEARCH_BUDGET` (D6): the most bytes one `RECV_LEDS` removes while searching. -/
  searchBudget : Nat := 400
  /-- `RXQ_DEPTH` (D7): the capacity of `rxq`. -/
  rxqDepth : Nat := 1024
  /-- `CNT_W` (D3): the width in bits of every statistics counter. -/
  cntW : Nat := 32
  /-- `MSG_MAX` (D24): the longest message operand. -/
  msgMax : Nat := 65535
  searchBudget_pos : 1 ≤ searchBudget := by decide
  rxqDepth_ge : 198 ≤ rxqDepth := by decide
  cntW_ge : 8 ≤ cntW := by decide
  msgMax_ge : 202 ≤ msgMax := by decide
deriving DecidableEq, Repr

/-- The default parameters of R7. -/
def Config.default : Config := {}

/-- The top value `2^CNT_W − 1` of a statistics counter (R27). -/
def Config.counterTop (cfg : Config) : Nat := 2 ^ cfg.cntW - 1

/-! ## Fixed constants of R7 -/

/-- `LED_COUNT`. -/
abbrev ledCount : Nat := 49
/-- `PIXEL_BYTES` = 49 × 4. -/
abbrev pixelBytes : Nat := 196
/-- `LEDS_LEN`. -/
abbrev ledsLen : Nat := 200
/-- `LEDD_LEN` (D27). -/
abbrev leddLen : Nat := 201
/-- `BTN_LEN`. -/
abbrev btnLen : Nat := 7
/-- `PARAM_LEN` (C3, D9). -/
abbrev paramLen : Nat := 17
/-- `BOOT_LEN` (C4, D10). -/
abbrev bootLen : Nat := 107
/-- `READ_LEN` = `LEDS_LEN` − 2. -/
abbrev readLen : Nat := 198
/-- The width of `ssid` (R88). -/
abbrev ssidBytes : Nat := 32
/-- The width of `password` (R88). -/
abbrev passwordBytes : Nat := 64
/-- The width of `peer_ip` (R88). -/
abbrev ipBytes : Nat := 4

/-- `SYNC0`. -/
abbrev sync0 : Byte := 0xAA#8
/-- `SYNC1`. -/
abbrev sync1 : Byte := 0x55#8
/-- `BOOT_SYNC0`. -/
abbrev bootSync0 : Byte := 0xCC#8
/-- `BOOT_SYNC1`. -/
abbrev bootSync1 : Byte := 0xDD#8
/-- `MAGIC_LED`. -/
abbrev magicLed : U16 := 0xAA55#16
/-- `MAGIC_PARAM`. -/
abbrev magicParam : U16 := 0xAA55#16
/-- `MAGIC_BTN`. -/
abbrev magicBtn : U16 := 0x5AA5#16

/-- `MOD_LED`, a constant distinct from `modParam` (R200). -/
abbrev modLed : Nat := 60
/-- `MOD_PARAM`. -/
abbrev modParam : Nat := 255

/-- `CRC_POLY` (R120). -/
abbrev crcPoly : Byte := 0x07#8
/-- `CRC_INIT` (R120). -/
abbrev crcInit : Byte := 0x00#8
/-- `CRC_XOROUT` (R120, D2). -/
abbrev crcXorOut : Byte := 0x00#8

/-! ## Constants of R7 that the block never sees (host parameters and informative defaults, U2) -/

/-- `DRAIN_CAP`: the host's bound on `RECV_LEDS` calls per tick (R149). -/
abbrev drainCapDefault : Nat := 10
/-- `BOOT_TIMEOUT_MS`: the host's bootstrap timeout (R225). -/
abbrev bootTimeoutMsDefault : Nat := 30000
/-- `LED_PORT_DEFAULT`: an informative value of the `led_port` field (R58). -/
abbrev ledPortDefault : U16 := 8888#16
/-- `BTN_PORT_DEFAULT`: an informative value of the `button_port` field (R58). -/
abbrev buttonPortDefault : U16 := 8889#16

end Sys2Proof
end

