-- ==== Sys2Proof/Syntax.lean ====
section
/-! DEFINITION. The syntax of the link block: the five packets that play the part of instruction words (`Instr`, one constructor per row
of `spec/opcode_table.json`), the channels (R11), and the fifteen operations the two agents request (`Operation`, R5). -/

namespace Sys2Proof

/-- The channels `CH` (R11). -/
inductive Chan
  | leds | ledd | param | btn
deriving DecidableEq, Repr

/-- The sequenced channels `SEQ`: their packets carry `frame_ctr` (R11). -/
inductive SeqChan
  | leds | ledd | param
deriving DecidableEq, Repr

/-- The message channels `MSG`: decoded from a whole message (R11). -/
inductive MsgChan
  | ledd | param | btn
deriving DecidableEq, Repr

/-- A sequenced channel is a channel. -/
def SeqChan.toChan : SeqChan → Chan
  | .leds => .leds
  | .ledd => .ledd
  | .param => .param

/-- A message channel is a channel. -/
def MsgChan.toChan : MsgChan → Chan
  | .ledd => .ledd
  | .param => .param
  | .btn => .btn

/-- The modulus `M(c)` of a sequenced channel (R11, R200). -/
def SeqChan.modulus : SeqChan → Nat
  | .leds => modLed
  | .ledd => modLed
  | .param => modParam

/-- The five packet types (R80). -/
inductive PacketType
  | leds | ledd | param | btn | boot
deriving DecidableEq, Repr

/-- The packet type a message channel expects (R105). -/
def MsgChan.packet : MsgChan → PacketType
  | .ledd => .ledd
  | .param => .param
  | .btn => .btn

/-- A packet, with its variable fields in wire order and the CRC byte it carries, right or wrong. One constructor per row of
`spec/opcode_table.json`. Byte arrays are plain lists; `Instr.wellFormed` says their sizes. -/
inductive Instr
  /-- `LEDS`, the serial LED frame (R84). -/
  | leds (pixels : List Byte) (frameCtr crc : Byte)
  /-- `LEDD`, the datagram LED frame (R85). -/
  | ledd (frameCtr reserved : Byte) (pixels : List Byte) (crc : Byte)
  /-- `PARAM`, the Parameter Update (R87). -/
  | param (animType frameCtr : Byte) (p1 p2 p3 : U32) (crc : Byte)
  /-- `BTN`, the Button Frame (R86). -/
  | btn (a b c d crc : Byte)
  /-- `BOOT`, the Link Bootstrap (R88). -/
  | boot (ssid password peerIp : List Byte) (ledPort buttonPort : U16) (crc : Byte)
deriving DecidableEq, Repr

/-- The packet type of an instruction. -/
def Instr.packet : Instr → PacketType
  | .leds _ _ _ => .leds
  | .ledd _ _ _ _ => .ledd
  | .param _ _ _ _ _ _ => .param
  | .btn _ _ _ _ _ => .btn
  | .boot _ _ _ _ _ _ => .boot

/-- The names `STAT_READ` takes, and no other (R241): `skipped[BTN]`, for one, cannot be written. -/
inductive StatName
  | syncFailures
  | accepted (c : Chan)
  | corrupted (c : Chan)
  | skipped (c : SeqChan)
  | last (c : SeqChan)
  | haveLast (c : SeqChan)
  | txCtr (c : SeqChan)
  | invalid (c : MsgChan)
  | fs
  | haveSync0
  | rxqLen
  | bootState
  | bootFill
deriving DecidableEq, Repr

/-- The fifteen operations of R5, with their typed operands. They have no binary encoding (R106). -/
inductive Operation
  /-- `CRC8(bytes)` (R123). -/
  | crc8 (bytes : List Byte)
  /-- `ENC_LEDS(pixels)` (R141). -/
  | encLeds (pixels : List Byte)
  /-- `RX_PUSH(b)` (R53). -/
  | rxPush (b : Byte)
  /-- `RECV_LEDS()` (R143). -/
  | recvLeds
  /-- `ENC_LEDD(pixels)` (R171). -/
  | encLedd (pixels : List Byte)
  /-- `ENC_PARAM(anim_type, p1, p2, p3)` (R172). -/
  | encParam (animType : Byte) (p1 p2 p3 : U32)
  /-- `ENC_BTN(a, b, c, d)`, four booleans (R173). -/
  | encBtn (a b c d : Bool)
  /-- `DEC_LEDD(msg)` (R175). -/
  | decLedd (msg : List Byte)
  /-- `DEC_PARAM(msg)` (R176). -/
  | decParam (msg : List Byte)
  /-- `DEC_BTN(msg)` (R177). -/
  | decBtn (msg : List Byte)
  /-- `ENC_BOOT(ssid, password, peer_ip, led_port, button_port)` (R221). -/
  | encBoot (ssid password peerIp : List Byte) (ledPort buttonPort : U16)
  /-- `BOOT_POLL()` (R223). -/
  | bootPoll
  /-- `BOOT_TIMEOUT()` (R225). -/
  | bootTimeout
  /-- `STAT_READ(name)` (R241). -/
  | statRead (name : StatName)
  /-- `RESET()` (R240). -/
  | reset
deriving DecidableEq, Repr

/-- The `DEC_*` operation of a message channel (R105). -/
def MsgChan.decode : MsgChan → List Byte → Operation
  | .ledd, msg => .decLedd msg
  | .param, msg => .decParam msg
  | .btn, msg => .decBtn msg

/-- The two agents (R6). -/
inductive Agent
  | host | serialTransport
deriving DecidableEq, Repr

/-- The agent that requests an operation (R5, R6): the transport pushes bytes, the host does everything else. -/
def Operation.agent : Operation → Agent
  | .rxPush _ => .serialTransport
  | .crc8 _ => .host
  | .encLeds _ => .host
  | .recvLeds => .host
  | .encLedd _ => .host
  | .encParam _ _ _ _ => .host
  | .encBtn _ _ _ _ => .host
  | .decLedd _ => .host
  | .decParam _ => .host
  | .decBtn _ => .host
  | .encBoot _ _ _ _ _ => .host
  | .bootPoll => .host
  | .bootTimeout => .host
  | .statRead _ => .host
  | .reset => .host

end Sys2Proof
end

