-- ==== Sys2Proof/WellFormed.lean ====
section
/-! DEFINITION. Which packets and which requests have the sizes the spec gives them, and which packets a conforming sender makes. -/

namespace Sys2Proof

/-- A packet's byte arrays have their widths (R84, R85, R88). Nothing else about a packet is checked: any CRC byte and any field value is
well formed (R108). -/
def Instr.wellFormed : Instr → Bool
  | .leds pixels _ _ => pixels.length == pixelBytes
  | .ledd _ _ pixels _ => pixels.length == pixelBytes
  | .param _ _ _ _ _ _ => true
  | .btn _ _ _ _ _ => true
  | .boot ssid password peerIp _ _ _ =>
    ssid.length == ssidBytes && password.length == passwordBytes && peerIp.length == ipBytes

/-- A request that the interface can express: operand arrays of exactly the stated sizes (R141, R171, R221), byte sequences of at most
`MSG_MAX` bytes (R55, R123). Anything else cannot be presented (U8). -/
def Operation.expressible (cfg : Config) : Operation → Bool
  | .crc8 bytes => decide (bytes.length ≤ cfg.msgMax)
  | .encLeds pixels => pixels.length == pixelBytes
  | .rxPush _ => true
  | .recvLeds => true
  | .encLedd pixels => pixels.length == pixelBytes
  | .encParam _ _ _ _ => true
  | .encBtn _ _ _ _ => true
  | .decLedd msg => decide (msg.length ≤ cfg.msgMax)
  | .decParam msg => decide (msg.length ≤ cfg.msgMax)
  | .decBtn msg => decide (msg.length ≤ cfg.msgMax)
  | .encBoot ssid password peerIp _ _ =>
    ssid.length == ssidBytes && password.length == passwordBytes && peerIp.length == ipBytes
  | .bootPoll => true
  | .bootTimeout => true
  | .statRead _ => true
  | .reset => true

/-- A sequence number a conforming sender uses on channel `c`: 1..M(c) (R90). The receiver does not check it (R108). -/
def SeqChan.senderCtr (c : SeqChan) (v : Byte) : Bool := decide (1 ≤ v.toNat) && decide (v.toNat ≤ c.modulus)

end Sys2Proof
end

