-- ==== Sys2Proof/Decode.lean ====
section
/-! DEFINITION. Field assembly (R82), the decoder of the five packet formats (R84 to R88, R105, R106), the encoder, and the opcode
table's numbering of a packet's bits. The CRC byte is a field like the others here: whether it is right is the packet's meaning. -/

namespace Sys2Proof

/-! ## Field assembly -/

/-- Byte `i` of a byte sequence (`s[i]`, R8). -/
def byteAt (s : List Byte) (i : Nat) : Byte := s.getD i 0

/-- The `n` bytes of `s` from offset `off` on (`s[off..off+n-1]`, R8). -/
def bytesAt (s : List Byte) (off n : Nat) : List Byte := (s.drop off).take n

/-- `le16(b0, b1) = b0 + 256·b1` (R82). -/
def le16 (b0 b1 : Byte) : U16 := BitVec.ofNat 16 (b0.toNat + 256 * b1.toNat)

/-- `le32(b0, b1, b2, b3) = b0 + 2^8·b1 + 2^16·b2 + 2^24·b3` (R82). -/
def le32 (b0 b1 b2 b3 : Byte) : U32 :=
  BitVec.ofNat 32 (b0.toNat + 2 ^ 8 * b1.toNat + 2 ^ 16 * b2.toNat + 2 ^ 24 * b3.toNat)

/-- `lo8(v) = v mod 256` (R9). -/
def lo8 (v : U16) : Byte := BitVec.ofNat 8 (v.toNat % 256)

/-- `hi8(v) = (v div 256) mod 256` (R9). -/
def hi8 (v : U16) : Byte := BitVec.ofNat 8 (v.toNat / 256 % 256)

/-- The wire bytes of a 16-bit field (R82): the less significant byte first (R50). -/
def store16 (v : U16) : List Byte := [lo8 v, hi8 v]

/-- Byte `k` of a stored 32-bit word: `(w div 2^(8k)) mod 256` (R82). -/
def byteOf32 (w : U32) (k : Nat) : Byte := BitVec.ofNat 8 (w.toNat / 2 ^ (8 * k) % 256)

/-- The wire bytes of a 32-bit field (R82). -/
def store32 (w : U32) : List Byte := [byteOf32 w 0, byteOf32 w 1, byteOf32 w 2, byteOf32 w 3]

/-- The 16-bit field at offset `off` of a packet buffer. -/
def field16 (s : List Byte) (off : Nat) : U16 := le16 (byteAt s off) (byteAt s (off + 1))

/-- The 32-bit field at offset `off` of a packet buffer. -/
def field32 (s : List Byte) (off : Nat) : U32 :=
  le32 (byteAt s off) (byteAt s (off + 1)) (byteAt s (off + 2)) (byteAt s (off + 3))

/-! ## Decoder -/

/-- The exact length of a packet type (R105). -/
def PacketType.length : PacketType → Nat
  | .leds => ledsLen
  | .ledd => leddLen
  | .param => paramLen
  | .btn => btnLen
  | .boot => bootLen

/-- The first two wire bytes are those of the packet type (R105): two separate sync bytes for the serial types, a little-endian magic for
the message types (R51). -/
def PacketType.startFits : PacketType → Byte → Byte → Bool
  | .leds, b0, b1 => b0 == sync0 && b1 == sync1
  | .ledd, b0, b1 => le16 b0 b1 == magicLed
  | .param, b0, b1 => le16 b0 b1 == magicParam
  | .btn, b0, b1 => le16 b0 b1 == magicBtn
  | .boot, b0, b1 => b0 == bootSync0 && b1 == bootSync1

/-- The fields of a packet of the given type, at the offsets of R84 to R88. -/
def PacketType.fieldsOf : PacketType → List Byte → Instr
  | .leds, s => .leds (bytesAt s 2 pixelBytes) (byteAt s 198) (byteAt s 199)
  | .ledd, s => .ledd (byteAt s 2) (byteAt s 3) (bytesAt s 4 pixelBytes) (byteAt s 200)
  | .param, s => .param (byteAt s 2) (byteAt s 3) (field32 s 4) (field32 s 8) (field32 s 12) (byteAt s 16)
  | .btn, s => .btn (byteAt s 2) (byteAt s 3) (byteAt s 4) (byteAt s 5) (byteAt s 6)
  | .boot, s =>
    .boot (bytesAt s 2 ssidBytes) (bytesAt s 34 passwordBytes) (bytesAt s 98 ipBytes) (field16 s 102) (field16 s 104)
      (byteAt s 106)

/-- Why a byte sequence is not a packet of the expected type (R107). -/
inductive DecodeError
  /-- Its length is not the type's one. -/
  | wrongLength
  /-- Its first two bytes are not the type's sync pair or magic. -/
  | wrongStart
deriving DecidableEq, Repr

/-- What the decoder answers. -/
inductive Decoded
  | instr (i : Instr)
  | rejected (why : DecodeError)
deriving DecidableEq, Repr

/-- The decoder of one packet type, total on any bytes: length first, then sync or magic (R105, R107, R174). The type comes from the
operation, never from the bits (R105). -/
def PacketType.decode (k : PacketType) (s : List Byte) : Decoded :=
  if s.length ≠ k.length then .rejected .wrongLength
  else if k.startFits (byteAt s 0) (byteAt s 1) then .instr (k.fieldsOf s)
  else .rejected .wrongStart

/-- The packet types in the opcode table's order. -/
def packetTypes : List PacketType := [.leds, .ledd, .param, .btn, .boot]

/-- The first row of `rows` that `s` fits (R106). -/
def decodeAmong (s : List Byte) : List PacketType → Option Instr
  | [] => none
  | k :: rows =>
    match k.decode s with
    | .instr i => some i
    | .rejected _ => decodeAmong s rows

/-- The packet that a byte sequence is by the opcode table alone: the row it fits, by length, match and mask (R106). -/
def decode (s : List Byte) : Option Instr := decodeAmong s packetTypes

/-! ## Encoder -/

/-- The bytes of a packet before its CRC byte, in the layout of R84 to R88. -/
def encodeBody : Instr → List Byte
  | .leds pixels frameCtr _ => [sync0, sync1] ++ pixels ++ [frameCtr]
  | .ledd frameCtr reserved pixels _ => store16 magicLed ++ [frameCtr, reserved] ++ pixels
  | .param animType frameCtr p1 p2 p3 _ =>
    store16 magicParam ++ [animType, frameCtr] ++ store32 p1 ++ store32 p2 ++ store32 p3
  | .btn a b c d _ => store16 magicBtn ++ [a, b, c, d]
  | .boot ssid password peerIp ledPort buttonPort _ =>
    [bootSync0, bootSync1] ++ ssid ++ password ++ peerIp ++ store16 ledPort ++ store16 buttonPort

/-- The CRC byte a packet carries (R83). -/
def crcField : Instr → Byte
  | .leds _ _ crc => crc
  | .ledd _ _ _ crc => crc
  | .param _ _ _ _ _ crc => crc
  | .btn _ _ _ _ crc => crc
  | .boot _ _ _ _ _ crc => crc

/-- The wire bytes of a packet: its body and then its CRC byte at offset `L − 1` (R83). -/
def encode (i : Instr) : List Byte := encodeBody i ++ [crcField i]

/-! ## The opcode table's numbering -/

/-- Byte `i` of an instruction of `n` bytes whose bits are `w`. The table numbers the first two wire bytes as the 16-bit number
`s[0]·256 + s[1]` (R106), so the table's words are of 16 bits, the byte at the lower offset being the high half; a last odd byte is a
word of 8 bits (log entry 6, DESIGN CHOICE). -/
def tableByte (n w i : Nat) : Byte :=
  if i % 2 = 1 then BitVec.ofNat 8 (w / 2 ^ (8 * (i - 1)))
  else if i + 1 < n then BitVec.ofNat 8 (w / 2 ^ (8 * (i + 1)))
  else BitVec.ofNat 8 (w / 2 ^ (8 * i))

/-- The wire bytes of an instruction of which the table gives `nbits` bits `w`. -/
def tableBytes (nbits w : Nat) : List Byte := (List.range (nbits / 8)).map (tableByte (nbits / 8) w)

/-- The bytes filled with zeros up to the length of a packet type. -/
def padTo (k : PacketType) (s : List Byte) : List Byte := s ++ List.replicate (k.length - s.length) 0

/-- The first row of `rows` that `s` fits when it is filled with zeros to the row's length. -/
def decodePadded (s : List Byte) : List PacketType → Option (PacketType × Instr)
  | [] => none
  | k :: rows =>
    match k.decode (padTo k s) with
    | .instr i => some (k, i)
    | .rejected _ => decodePadded s rows

/-- The row and the packet that the table's bits are: the row of that very length if there is one, else the first row they fit when filled
with zeros. Two bytes `55 AA` alone are read as `LEDD`: only the length tells `PARAM` from it (R105; log entry 6). -/
def decodeTableBytes (s : List Byte) : Option (PacketType × Instr) :=
  decodePadded s (packetTypes.filter (fun k => k.length == s.length) ++ packetTypes)

/-- The instruction the decoder reads from an instruction whose table bits are `w`. -/
def decodeTableWord (nbits w : Nat) : Option Instr := (decodeTableBytes (tableBytes nbits w)).map (fun p => p.2)

end Sys2Proof
end

