-- ==== Sys2Proof/Machine/State.lean ====
section
/-! DEFINITION. The state of the link block (`10_state.md` R20), the result types of its operations (R10, R222, R241), the machine's
`State`, and its value after reset (R38). -/

namespace Sys2Proof.Machine

/-! ## Registers that exist once per channel -/

/-- One register per sequenced channel (c ∈ SEQ). -/
structure PerSeq (α : Type) where
  leds : α
  ledd : α
  param : α
deriving DecidableEq, Repr

/-- One register per message channel (c ∈ MSG). -/
structure PerMsg (α : Type) where
  ledd : α
  param : α
  btn : α
deriving DecidableEq, Repr

/-- One register per channel (c ∈ CH). -/
structure PerChan (α : Type) where
  leds : α
  ledd : α
  param : α
  btn : α
deriving DecidableEq, Repr

/-- `r[c]`. -/
def PerSeq.get {α : Type} (r : PerSeq α) : SeqChan → α
  | .leds => r.leds
  | .ledd => r.ledd
  | .param => r.param

/-- `r[c] <- v`. -/
def PerSeq.set {α : Type} (r : PerSeq α) (c : SeqChan) (v : α) : PerSeq α :=
  match c with
  | .leds => { r with leds := v }
  | .ledd => { r with ledd := v }
  | .param => { r with param := v }

/-- `r[c]`. -/
def PerMsg.get {α : Type} (r : PerMsg α) : MsgChan → α
  | .ledd => r.ledd
  | .param => r.param
  | .btn => r.btn

/-- `r[c] <- v`. -/
def PerMsg.set {α : Type} (r : PerMsg α) (c : MsgChan) (v : α) : PerMsg α :=
  match c with
  | .ledd => { r with ledd := v }
  | .param => { r with param := v }
  | .btn => { r with btn := v }

/-- `r[c]`. -/
def PerChan.get {α : Type} (r : PerChan α) : Chan → α
  | .leds => r.leds
  | .ledd => r.ledd
  | .param => r.param
  | .btn => r.btn

/-- `r[c] <- v`. -/
def PerChan.set {α : Type} (r : PerChan α) (c : Chan) (v : α) : PerChan α :=
  match c with
  | .leds => { r with leds := v }
  | .ledd => { r with ledd := v }
  | .param => { r with param := v }
  | .btn => { r with btn := v }

/-! ## The block -/

/-- `fs`, the deframer state between operations: VALIDATING is entered and left inside one operation (R22, D30). -/
inductive FrameState
  | searching | reading
deriving DecidableEq, Repr

/-- Why the bootstrap failed (R31, R222). -/
inductive BootFailure
  /-- The host reported expiry before 107 bytes were there. -/
  | timeout
  /-- 107 bytes were there and the sync check failed. -/
  | invalidSync
  /-- 107 bytes were there, the sync check passed and the CRC check failed. -/
  | invalidCrc
deriving DecidableEq, Repr

/-- `boot_state` (R31). -/
inductive BootState
  | wait
  | done
  | failed (why : BootFailure)
deriving DecidableEq, Repr

/-- The complete state of one link block: the table of R20 and nothing else. Counters of `CNT_W` bits are natural numbers that
`satInc` keeps at or below `2^CNT_W − 1` (R27). -/
structure Block where
  /-- `rxq`, oldest byte first (R21, R52). -/
  rxq : List Byte
  /-- `fs` (R22). -/
  fs : FrameState
  /-- `have_sync0` (R23). -/
  haveSync0 : Bool
  /-- `sync_failures` (R25). -/
  syncFailures : Nat
  /-- `last[c]` (R26). -/
  last : PerSeq Byte
  /-- `have_last[c]` (R26). -/
  haveLast : PerSeq Bool
  /-- `accepted[c]` (R26). -/
  accepted : PerChan Nat
  /-- `skipped[c]` (R26). -/
  skipped : PerSeq Nat
  /-- `corrupted[c]` (R26). -/
  corrupted : PerChan Nat
  /-- `invalid[c]` (R28). -/
  invalid : PerMsg Nat
  /-- `tx_ctr[c]`: the number the next packet encoded on `c` will carry (R29). -/
  txCtr : PerSeq Byte
  /-- `boot_buf`, an array of 107 bytes (R30). -/
  bootBuf : List Byte
  /-- `boot_fill` (R30). -/
  bootFill : Nat
  /-- `boot_state` (R31). -/
  bootState : BootState
deriving DecidableEq, Repr

/-- The block after power-on and after `RESET()` (R38, R240, R280). -/
def Block.reset : Block where
  rxq := []
  fs := .searching
  haveSync0 := false
  syncFailures := 0
  last := ⟨0, 0, 0⟩
  haveLast := ⟨false, false, false⟩
  accepted := ⟨0, 0, 0, 0⟩
  skipped := ⟨0, 0, 0⟩
  corrupted := ⟨0, 0, 0, 0⟩
  invalid := ⟨0, 0, 0⟩
  txCtr := ⟨1, 1, 1⟩
  bootBuf := List.replicate bootLen 0
  bootFill := 0
  bootState := .wait

/-! ## What operations return -/

/-- The causes of `NoData` (R10). -/
inductive NoDataCause
  | empty | syncNotFound | frameIncomplete
deriving DecidableEq, Repr

/-- The sub-causes of `FrameInvalid` (R10). -/
inductive InvalidCause
  | length | magic
deriving DecidableEq, Repr

/-- The reasons of `FrameRejected` (R10). -/
inductive RejectReason
  | frameCorrupt
  | frameInvalid (why : InvalidCause)
deriving DecidableEq, Repr

/-- The record of decoded fields of an accepted packet (R147, R175, R176, R177). `reserved` of a datagram LED frame is not reported (R91). -/
inductive Payload
  | leds (pixels : List Byte) (ctr : Byte)
  | ledd (pixels : List Byte) (ctr : Byte)
  | param (animType ctr : Byte) (p1 p2 p3 : U32)
  | btn (a b c d : Byte)
deriving DecidableEq, Repr

/-- `Outcome` of the receive and decode operations (R10). -/
inductive RxOutcome
  | noData (cause : NoDataCause)
  | frameRejected (reason : RejectReason)
  | frameAccepted (payload : Payload) (gap : Nat)
deriving DecidableEq, Repr

/-- The fields a finished bootstrap delivers (R222, `Fields` of R223). -/
structure BootPayload where
  ssid : List Byte
  password : List Byte
  peerIp : List Byte
  ledPort : U16
  buttonPort : U16
deriving DecidableEq, Repr

/-- `BootOutcome` (R222). -/
inductive BootOutcome
  | pending (fill : Nat)
  | done (payload : BootPayload)
  | failed (cause : BootFailure)
deriving DecidableEq, Repr

/-- The value `STAT_READ` returns: the item's current value, in the item's own type (R241). -/
inductive StatValue
  | counter (n : Nat)
  | byte (v : Byte)
  | flag (v : Bool)
  | size (n : Nat)
  | frameState (v : FrameState)
  | bootState (v : BootState)
deriving DecidableEq, Repr

/-- Why a request is refused: it does not happen and the block is unchanged (treatment "refuse" of `93_implementation_defined.md`). -/
inductive RefusedWhy
  /-- `RX_PUSH` into a full queue: the transport keeps the byte (R53, U6). -/
  | queueFull
  /-- A request the interface cannot express: `Operation.expressible` is false (R55, U8; log entry 4). -/
  | notExpressible
deriving DecidableEq, Repr

/-- What one operation gives back to the agent that requested it. -/
inductive Result
  /-- `RX_PUSH` that took its byte and `RESET` return nothing (R53, R240). -/
  | nothing
  | refusedRequest (why : RefusedWhy)
  /-- The byte `CRC8` returns (R123). -/
  | crc (v : Byte)
  /-- The packet an `ENC_*` operation returns (R54 (d)). -/
  | packet (bytes : List Byte)
  | rx (o : RxOutcome)
  | boot (o : BootOutcome)
  | stat (v : StatValue)
deriving DecidableEq, Repr

/-! ## The machine -/

/-- The reasons a step could stop with a fault. There is none: the block never raises an exception-like control transfer (R251), and every
operation in every state is "always defined, always terminates" (R295). The type is empty, which is safe: no run of the model ends
where the block goes on. -/
inductive Fault
deriving DecidableEq, Repr

/-- The reasons a step could be refused by the model. -/
inductive Refusal
  /-- An instruction without a meaning yet. `exec` raises it for no instruction of this model. Safe: the run ends. -/
  | notModelled (mnemonic : String)
deriving DecidableEq, Repr

/-- The machine: one link block, its static parameters, the requests of the two agents that are still to be performed, and the values
returned so far. `cfg`, `pending` and `results` are the model's own fields (log entries 1 and 2). -/
structure State where
  /-- The state of R20. -/
  block : Block
  /-- The parameters of R7, fixed per instance. -/
  cfg : Config
  /-- The total order of the requests of both agents that are still to come, oldest first (R59). -/
  pending : List Operation
  /-- The values the performed operations returned, oldest first (R294). -/
  results : List Result
deriving DecidableEq, Repr

/-- The machine right after reset (R38, R280): the block at its reset values, default parameters, nothing requested and nothing returned. -/
def State.reset : State where
  block := Block.reset
  cfg := Config.default
  pending := []
  results := []

end Sys2Proof.Machine
end

