-- ==== Sys2Proof/Machine/Operands.lean ====
section
/-! DEFINITION. The operand forms of the operations: the receive queue (R52), the accumulation buffer (R223), the pack functions that
build a packet operand (R100 to R104), and the items `STAT_READ` reads (R241). -/

namespace Sys2Proof.Machine

/-! ## The receive queue -/

/-- `QLen()`. -/
def Block.qLen (b : Block) : Nat := b.rxq.length

/-- `QPush(b)`: the byte becomes the newest. -/
def Block.qPush (b : Block) (v : Byte) : Block := { b with rxq := b.rxq ++ [v] }

/-- `QPopN(n)`: the `n` oldest bytes, oldest first, and the block without them. -/
def Block.qPopN (b : Block) (n : Nat) : List Byte × Block := (b.rxq.take n, { b with rxq := b.rxq.drop n })

/-! ## The accumulation buffer -/

/-- `boot_buf[fill + j] <- bytes[j]` for every `j` (R223). -/
def storeAt (buf : List Byte) (fill : Nat) (bytes : List Byte) : List Byte :=
  buf.take fill ++ bytes ++ buf.drop (fill + bytes.length)

/-- `Fields(b)` (R223). -/
def bootFields (buf : List Byte) : BootPayload where
  ssid := bytesAt buf 2 ssidBytes
  password := bytesAt buf 34 passwordBytes
  peerIp := bytesAt buf 98 ipBytes
  ledPort := field16 buf 102
  buttonPort := field16 buf 104

/-! ## Pack functions -/

/-- `Pack_LEDS(pixels, ctr)` (R100). -/
def packLeds (pixels : List Byte) (ctr : Byte) : List Byte := sealPacket ([sync0, sync1] ++ pixels ++ [ctr])

/-- `Pack_LEDD(pixels, ctr, rsv)` (R101). -/
def packLedd (pixels : List Byte) (ctr rsv : Byte) : List Byte :=
  sealPacket (store16 magicLed ++ [ctr, rsv] ++ pixels)

/-- `Pack_BTN(a, b, c, d)` (R102). -/
def packBtn (a b c d : Byte) : List Byte := sealPacket (store16 magicBtn ++ [a, b, c, d])

/-- `Pack_PARAM(anim, ctr, p1, p2, p3)` (R103). -/
def packParam (anim ctr : Byte) (p1 p2 p3 : U32) : List Byte :=
  sealPacket (store16 magicParam ++ [anim, ctr] ++ store32 p1 ++ store32 p2 ++ store32 p3)

/-- `Pack_BOOT(ssid, password, ip, led_port, button_port)` (R104). -/
def packBoot (ssid password ip : List Byte) (ledPort buttonPort : U16) : List Byte :=
  sealPacket ([bootSync0, bootSync1] ++ ssid ++ password ++ ip ++ store16 ledPort ++ store16 buttonPort)

/-- A boolean operand as a wire byte: 0x01 for true, 0x00 for false (R92, R173). -/
def buttonByte (pressed : Bool) : Byte := if pressed then 1 else 0

/-! ## Status items -/

/-- The current value of a readable item (R241). -/
def Block.readItem (b : Block) : StatName → StatValue
  | .syncFailures => .counter b.syncFailures
  | .accepted c => .counter (b.accepted.get c)
  | .corrupted c => .counter (b.corrupted.get c)
  | .skipped c => .counter (b.skipped.get c)
  | .last c => .byte (b.last.get c)
  | .haveLast c => .flag (b.haveLast.get c)
  | .txCtr c => .byte (b.txCtr.get c)
  | .invalid c => .counter (b.invalid.get c)
  | .fs => .frameState b.fs
  | .haveSync0 => .flag b.haveSync0
  | .rxqLen => .size b.qLen
  | .bootState => .bootState b.bootState
  | .bootFill => .size b.bootFill

end Sys2Proof.Machine
end

