-- ==== Sys2Proof/Machine/Ops.lean ====
section
/-! DEFINITION. The operations that several meanings share: finishing an operation, raising a condition (`60_exceptions.md`), and the
sequence tracker (`43_sequence_tracker.md`). -/

namespace Sys2Proof.Machine

/-- An operation ends: the block it leaves, and the value it returns (R9 `return X`, R294). -/
def State.complete (s : State) (b : Block) (r : Result) : State :=
  { s with block := b, results := s.results ++ [r] }

/-! ## Conditions: this block's exceptions

There is no control transfer, no saved state and no return (R251, R256, R257): raising a condition records it and returns its outcome. -/

/-- The conditions of R250 that end an operation. SequenceGap, which accompanies an accepted frame, is counted by `track`. -/
inductive Condition
  /-- Code 0, not an error: the queue ran empty while searching. -/
  | empty
  /-- Code 1. -/
  | syncNotFound
  /-- Code 2, on the channel of the packet. -/
  | frameCorrupt (c : Chan)
  /-- Code 3. -/
  | frameIncomplete
  /-- Code 5. -/
  | bootstrapTimeout
  /-- Code 6, sub-cause Sync. -/
  | bootstrapInvalidSync
  /-- Code 6, sub-cause Crc. -/
  | bootstrapInvalidCrc
  /-- Code 7, with its sub-cause. -/
  | frameInvalid (c : MsgChan) (why : InvalidCause)
deriving DecidableEq, Repr

/-- The "recorded in" column of R250. -/
def record (cfg : Config) (b : Block) : Condition → Block
  | .empty => b
  | .syncNotFound => { b with syncFailures := satInc cfg b.syncFailures 1 }
  | .frameCorrupt c => { b with corrupted := b.corrupted.set c (satInc cfg (b.corrupted.get c) 1) }
  | .frameIncomplete => b
  | .bootstrapTimeout => { b with bootState := .failed .timeout }
  | .bootstrapInvalidSync => { b with bootState := .failed .invalidSync }
  | .bootstrapInvalidCrc => { b with bootState := .failed .invalidCrc }
  | .frameInvalid c _ => { b with invalid := b.invalid.set c (satInc cfg (b.invalid.get c) 1) }

/-- The "returned" column of R250. -/
def returned : Condition → Result
  | .empty => .rx (.noData .empty)
  | .syncNotFound => .rx (.noData .syncNotFound)
  | .frameCorrupt _ => .rx (.frameRejected .frameCorrupt)
  | .frameIncomplete => .rx (.noData .frameIncomplete)
  | .bootstrapTimeout => .boot (.failed .timeout)
  | .bootstrapInvalidSync => .boot (.failed .invalidSync)
  | .bootstrapInvalidCrc => .boot (.failed .invalidCrc)
  | .frameInvalid _ why => .rx (.frameRejected (.frameInvalid why))

/-- `raise <Cause>`: record the condition in block `b` and return its outcome; nothing else happens (R251). -/
def State.raise (s : State) (b : Block) (c : Condition) : State := s.complete (record s.cfg b c) (returned c)

/-! ## The sequence counter and the loss tracker -/

/-- `NextCtr(v, M) = (v mod M) + 1` (R206). -/
def nextCtr (v m : Nat) : Nat := v % m + 1

/-- The forward distance from the expected counter `e` to the received counter `r`, modulus `m`; the two branches are kept as written
(R201, R203 (f)). -/
def forwardDistance (m e r : Nat) : Nat := if e ≤ r then r - e else m - e + r

/-- `Track(c, r) -> gap` (R201): the tracker registers after an accepted frame, and the gap. SequenceGap is raised here, by adding to
`skipped[c]`. -/
def track (cfg : Config) (b : Block) (c : SeqChan) (r : Byte) : Block × Nat :=
  let expected := nextCtr (b.last.get c).toNat c.modulus
  let missed := b.haveLast.get c && r.toNat != expected
  let gap := if missed then forwardDistance c.modulus expected r.toNat else 0
  ({ b with
      skipped := if missed then b.skipped.set c (satInc cfg (b.skipped.get c) gap) else b.skipped
      last := b.last.set c r
      haveLast := b.haveLast.set c true
      accepted := b.accepted.set c.toChan (satInc cfg (b.accepted.get c.toChan) 1) },
   gap)

/-- The sequence number of the next packet of channel `c`, and the block with the counter advanced (R141, R171, R172, R206). -/
def takeCtr (b : Block) (c : SeqChan) : Byte × Block :=
  (b.txCtr.get c,
   { b with txCtr := b.txCtr.set c (BitVec.ofNat 8 (nextCtr (b.txCtr.get c).toNat c.modulus)) })

/-- The end of an accepted frame of a sequenced channel: run the tracker, deliver the payload with the gap (R147, R175, R176). -/
def State.acceptTracked (s : State) (b : Block) (c : SeqChan) (ctr : Byte) (payload : Payload) : State :=
  s.complete (track s.cfg b c ctr).1 (.rx (.frameAccepted payload (track s.cfg b c ctr).2))

end Sys2Proof.Machine
end

