-- ==== Sys2Proof/Machine/Bootstrap.lean ====
section
/-! DEFINITION. The Link Bootstrap (`44_link_bootstrap.md`): the encoder, the timeout, the accumulation, and the meaning of the packet
once its sync bytes have passed. `BOOT_POLL` itself, which executes the packet it accumulated, is in `Machine/Requests.lean`. -/

namespace Sys2Proof.Machine

/-- `ENC_BOOT(…)` (R221): no state is written. -/
def performEncBoot (ssid password peerIp : List Byte) (ledPort buttonPort : U16) (s : State) : State :=
  s.complete s.block (.packet (packBoot ssid password peerIp ledPort buttonPort))

/-- `BOOT_TIMEOUT()` (R225): it decides only a handshake that is still waiting. -/
def performBootTimeout (s : State) : State :=
  match s.block.bootState with
  | .wait => s.raise s.block .bootstrapTimeout
  | .done => s.complete s.block (.boot (.done (bootFields s.block.bootBuf)))
  | .failed why => s.complete s.block (.boot (.failed why))

/-- The accumulation of `BOOT_POLL` in WAIT (R223): at most the bytes still missing move from `rxq` to `boot_buf`. -/
def accumulate (b : Block) : Block :=
  let k := min b.qLen (bootLen - b.bootFill)
  let taken := (b.qPopN k).1
  { (b.qPopN k).2 with bootBuf := storeAt b.bootBuf b.bootFill taken, bootFill := b.bootFill + k }

/-- `BootValidate()` after the sync check (R224): the meaning of an accumulated bootstrap packet. No counter moves either way. -/
def execBoot (ssid password peerIp : List Byte) (ledPort buttonPort : U16) (crc : Byte) (s : State) :
    Host.Outcome State Fault Refusal :=
  if crcMatches (encode (.boot ssid password peerIp ledPort buttonPort crc)) then
    .next (s.complete { s.block with bootState := .done }
      (.boot (.done ⟨ssid, password, peerIp, ledPort, buttonPort⟩)))
  else .next (s.raise s.block .bootstrapInvalidCrc)

end Sys2Proof.Machine
end

