-- ==== Sys2Proof/Machine/Datagram.lean ====
section
/-! DEFINITION. The datagram codec (`42_datagram_codec.md`): the three encoders, and the meanings of the three message packets once length
and magic have passed. -/

namespace Sys2Proof.Machine

/-- `ENC_LEDD(pixels)` (R171): the reserved byte is written 0x00 (R91). -/
def performEncLedd (pixels : List Byte) (s : State) : State :=
  s.complete (takeCtr s.block .ledd).2 (.packet (packLedd pixels (takeCtr s.block .ledd).1 0))

/-- `ENC_PARAM(anim_type, p1, p2, p3)` (R172). -/
def performEncParam (animType : Byte) (p1 p2 p3 : U32) (s : State) : State :=
  s.complete (takeCtr s.block .param).2 (.packet (packParam animType (takeCtr s.block .param).1 p1 p2 p3))

/-- `ENC_BTN(a, b, c, d)` (R173): no state is written. -/
def performEncBtn (a b c d : Bool) (s : State) : State :=
  s.complete s.block (.packet (packBtn (buttonByte a) (buttonByte b) (buttonByte c) (buttonByte d)))

/-- `DEC_LEDD` after the length and magic checks (R174, R175). The reserved byte is covered by the CRC and ignored (R91). -/
def execLedd (frameCtr reserved : Byte) (pixels : List Byte) (crc : Byte) (s : State) :
    Host.Outcome State Fault Refusal :=
  if crcMatches (encode (.ledd frameCtr reserved pixels crc)) then
    .next (s.acceptTracked s.block .ledd frameCtr (.ledd pixels frameCtr))
  else .next (s.raise s.block (.frameCorrupt .ledd))

/-- `DEC_PARAM` after the length and magic checks (R174, R176). -/
def execParam (animType frameCtr : Byte) (p1 p2 p3 : U32) (crc : Byte) (s : State) :
    Host.Outcome State Fault Refusal :=
  if crcMatches (encode (.param animType frameCtr p1 p2 p3 crc)) then
    .next (s.acceptTracked s.block .param frameCtr (.param animType frameCtr p1 p2 p3))
  else .next (s.raise s.block (.frameCorrupt .param))

/-- `DEC_BTN` after the length and magic checks (R174, R177): no tracker, gap always 0. -/
def execBtn (a b c d crc : Byte) (s : State) : Host.Outcome State Fault Refusal :=
  if crcMatches (encode (.btn a b c d crc)) then
    .next (s.complete
      { s.block with accepted := s.block.accepted.set .btn (satInc s.cfg (s.block.accepted.get .btn) 1) }
      (.rx (.frameAccepted (.btn a b c d) 0)))
  else .next (s.raise s.block (.frameCorrupt .btn))

end Sys2Proof.Machine
end

