-- ==== Sys2Proof/Machine/Serial.lean ====
section
/-! DEFINITION. The serial channel (`41_serial_framer_deframer.md`, `20_memory.md` R53): the framer, the queue's input, the search, and the
meaning of a serial LED frame. `RECV_LEDS` itself, which executes the frame it fetches, is in `Machine/Requests.lean`. -/

namespace Sys2Proof.Machine

/-- `ENC_LEDS(pixels)` (R141). -/
def performEncLeds (pixels : List Byte) (s : State) : State :=
  s.complete (takeCtr s.block .leds).2 (.packet (packLeds pixels (takeCtr s.block .leds).1))

/-- `RX_PUSH(b)` (R53): queued, or refused with nothing changed when the queue is full. -/
def performRxPush (v : Byte) (s : State) : State :=
  if s.block.qLen < s.cfg.rxqDepth then s.complete (s.block.qPush v) .nothing
  else s.complete s.block (.refusedRequest .queueFull)

/-! ## Search -/

/-- How `Search()` ends. -/
inductive SearchEnd
  | found | empty | syncNotFound
deriving DecidableEq, Repr

/-- What `Search()` leaves: how it ended, `rxq` and `have_sync0`. -/
structure SearchResult where
  stop : SearchEnd
  rxq : List Byte
  haveSync0 : Bool
deriving DecidableEq, Repr

/-- `Search()` (R144) on the queue `q`, with `n` bytes already removed in this call and `have_sync0 = h`. One round of this recursion is one
removal. A round whose flag is set and whose byte is not `SYNC1` drops the flag without consuming the byte and goes straight on to the
budget test with that byte as a fresh candidate; `searchPass` is the pseudocode's loop body as it is written. -/
def search (budget : Nat) : List Byte → Nat → Bool → SearchResult
  | [], n, h =>
    if h then ⟨.empty, [], true⟩ else if budget ≤ n then ⟨.syncNotFound, [], false⟩ else ⟨.empty, [], false⟩
  | b :: q, n, h =>
    if h && b == sync1 then ⟨.found, q, false⟩
    else if budget ≤ n then ⟨.syncNotFound, b :: q, false⟩
    else search budget q (n + 1) (b == sync0)

/-- The variables of the pseudocode of R144: `rxq`, `n`, `have_sync0`. -/
structure SearchVars where
  rxq : List Byte
  n : Nat
  haveSync0 : Bool
deriving DecidableEq, Repr

/-- One pass of the loop of R144, line by line: it returns, or it continues with new variables. -/
def searchPass (budget : Nat) (v : SearchVars) : SearchResult ⊕ SearchVars :=
  if v.haveSync0 then
    match v.rxq with
    | [] => .inl ⟨.empty, [], true⟩
    | b :: q =>
      if b = sync1 then .inl ⟨.found, q, false⟩
      else .inr ⟨b :: q, v.n, false⟩
  else if budget ≤ v.n then .inl ⟨.syncNotFound, v.rxq, false⟩
  else
    match v.rxq with
    | [] => .inl ⟨.empty, [], false⟩
    | b :: q => .inr ⟨q, v.n + 1, b == sync0⟩

/-- The loop of R144 for at most `fuel` passes. -/
def searchLoop (budget : Nat) : Nat → SearchVars → Option SearchResult
  | 0, _ => none
  | fuel + 1, v =>
    match searchPass budget v with
    | .inl r => some r
    | .inr v' => searchLoop budget fuel v'

/-- The SEARCHING phase of `RECV_LEDS` on the block (R143): the block after it, and how it ended. With `fs = READING` the pair is already
consumed and there is nothing to search. -/
def searchPhase (cfg : Config) (b : Block) : Block × SearchEnd :=
  match b.fs with
  | .reading => (b, .found)
  | .searching =>
    let r := search cfg.searchBudget b.rxq 0 b.haveSync0
    ({ b with
        rxq := r.rxq
        haveSync0 := r.haveSync0
        fs := if r.stop = .found then .reading else .searching },
     r.stop)

/-! ## Meaning of the packet `LEDS` -/

/-- `Validate(f)` (R147): the meaning of a 200-byte candidate frame. Both exits return to SEARCHING. -/
def execLeds (pixels : List Byte) (frameCtr crc : Byte) (s : State) : Host.Outcome State Fault Refusal :=
  let b := { s.block with fs := .searching }
  if crcMatches (encode (.leds pixels frameCtr crc)) then
    .next (s.acceptTracked b .leds frameCtr (.leds pixels frameCtr))
  else .next (s.raise b (.frameCorrupt .leds))

end Sys2Proof.Machine
end

