-- ==== Sys2Proof/Machine/Dispatch.lean ====
section
/-! DEFINITION. One arm per packet: the meaning of a packet that fits its row of `spec/opcode_table.json` (R106). -/

namespace Sys2Proof.Machine

def exec (i : Instr) (s : State) : Host.Outcome State Fault Refusal :=
  match i with
  | .leds pixels frameCtr crc => Sys2Proof.Machine.execLeds pixels frameCtr crc s
  | .ledd frameCtr reserved pixels crc => Sys2Proof.Machine.execLedd frameCtr reserved pixels crc s
  | .param animType frameCtr p1 p2 p3 crc => Sys2Proof.Machine.execParam animType frameCtr p1 p2 p3 crc s
  | .btn a b c d crc => Sys2Proof.Machine.execBtn a b c d crc s
  | .boot ssid password peerIp ledPort buttonPort crc => Sys2Proof.Machine.execBoot ssid password peerIp ledPort buttonPort crc s

end Sys2Proof.Machine
end

