-- ==== Sys2Proof/Machine/Requests.lean ====
section
/-! DEFINITION. The operations that fetch a packet, decode it and execute it (`RECV_LEDS`, `DEC_*`, `BOOT_POLL`), the system operations,
and `perform`, which gives each of the fifteen operations of R5 its effect. -/

namespace Sys2Proof.Machine

/-- The 200-byte candidate frame: the two sync bytes already consumed and the payload (R143). It fits the row `LEDS` by construction. -/
def candidateFrame (payload : List Byte) : List Byte := sync0 :: sync1 :: payload

/-- `RECV_LEDS()` (R143): search, read 198 bytes at once or not at all (R145), validate. -/
def performRecvLeds (s : State) : Host.Outcome State Fault Refusal :=
  let b := (searchPhase s.cfg s.block).1
  match (searchPhase s.cfg s.block).2 with
  | .empty => .next (s.raise b .empty)
  | .syncNotFound => .next (s.raise b .syncNotFound)
  | .found =>
    if b.qLen < readLen then .next (s.raise b .frameIncomplete)
    else
      exec (PacketType.leds.fieldsOf (candidateFrame (b.qPopN readLen).1)) { s with block := (b.qPopN readLen).2 }

/-- A message handed to the decoder of channel `c`: length, then magic (R174), then the packet's own meaning. -/
def performDecode (c : MsgChan) (msg : List Byte) (s : State) : Host.Outcome State Fault Refusal :=
  match c.packet.decode msg with
  | .rejected .wrongLength => .next (s.raise s.block (.frameInvalid c .length))
  | .rejected .wrongStart => .next (s.raise s.block (.frameInvalid c .magic))
  | .instr i => exec i s

/-- `DEC_LEDD(msg)` (R175). -/
def performDecLedd (msg : List Byte) (s : State) : Host.Outcome State Fault Refusal := performDecode .ledd msg s

/-- `DEC_PARAM(msg)` (R176). -/
def performDecParam (msg : List Byte) (s : State) : Host.Outcome State Fault Refusal := performDecode .param msg s

/-- `DEC_BTN(msg)` (R177). -/
def performDecBtn (msg : List Byte) (s : State) : Host.Outcome State Fault Refusal := performDecode .btn msg s

/-- `BOOT_POLL()` (R223), with `BootValidate()` (R224) when the 107th byte is there. A terminal outcome is reported again and nothing is
consumed (D29). -/
def performBootPoll (s : State) : Host.Outcome State Fault Refusal :=
  match s.block.bootState with
  | .done => .next (s.complete s.block (.boot (.done (bootFields s.block.bootBuf))))
  | .failed why => .next (s.complete s.block (.boot (.failed why)))
  | .wait =>
    let b := accumulate s.block
    if b.bootFill < bootLen then .next (s.complete b (.boot (.pending b.bootFill)))
    else
      match PacketType.boot.decode b.bootBuf with
      | .rejected _ => .next (s.raise b .bootstrapInvalidSync)
      | .instr i => exec i { s with block := b }

/-- `CRC8(s)` (R123). -/
def performCrc8 (bytes : List Byte) (s : State) : State := s.complete s.block (.crc (crc8 bytes))

/-- `STAT_READ(name)` (R241). -/
def performStatRead (name : StatName) (s : State) : State := s.complete s.block (.stat (s.block.readItem name))

/-- `RESET()` (R240): every item of R20 takes its reset value. -/
def performReset (s : State) : State := s.complete Block.reset .nothing

/-- A request that cannot be expressed is refused and changes nothing (U8; log entry 4). -/
def refuseRequest (s : State) : State := s.complete s.block (.refusedRequest .notExpressible)

/-- The effect of an operation that can be expressed (R5). -/
def performOperation (op : Operation) (s : State) : Host.Outcome State Fault Refusal :=
  match op with
  | .crc8 bytes => .next (performCrc8 bytes s)
  | .encLeds pixels => .next (performEncLeds pixels s)
  | .rxPush b => .next (performRxPush b s)
  | .recvLeds => performRecvLeds s
  | .encLedd pixels => .next (performEncLedd pixels s)
  | .encParam animType p1 p2 p3 => .next (performEncParam animType p1 p2 p3 s)
  | .encBtn a b c d => .next (performEncBtn a b c d s)
  | .decLedd msg => performDecLedd msg s
  | .decParam msg => performDecParam msg s
  | .decBtn msg => performDecBtn msg s
  | .encBoot ssid password peerIp ledPort buttonPort =>
    .next (performEncBoot ssid password peerIp ledPort buttonPort s)
  | .bootPoll => performBootPoll s
  | .bootTimeout => .next (performBootTimeout s)
  | .statRead name => .next (performStatRead name s)
  | .reset => .next (performReset s)

/-- One request: performed, or refused at the interface. -/
def perform (op : Operation) (s : State) : Host.Outcome State Fault Refusal :=
  if op.expressible s.cfg then performOperation op s else .next (refuseRequest s)

/-- The state in which the very next step fetches the bytes `bytes` as a packet of type `k` (log entry 6): as a message operand, or as the
next bytes of the serial input with the receiver at its start. -/
def State.offerPacket (s : State) (k : PacketType) (bytes : List Byte) : State :=
  match k with
  | .leds =>
    { s with
      block := { s.block with rxq := bytes ++ s.block.rxq, fs := .searching, haveSync0 := false }
      pending := .recvLeds :: s.pending }
  | .ledd => { s with pending := .decLedd bytes :: s.pending }
  | .param => { s with pending := .decParam bytes :: s.pending }
  | .btn => { s with pending := .decBtn bytes :: s.pending }
  | .boot =>
    { s with
      block := { s.block with rxq := bytes ++ s.block.rxq, bootFill := 0, bootState := .wait }
      pending := .bootPoll :: s.pending }

end Sys2Proof.Machine
end

