-- ==== Sys2Proof/Machine/Step.lean ====
section
/-! DEFINITION. One step of the machine: the oldest pending request is performed as one atomic operation (R59). -/

namespace Sys2Proof.Machine

/-- One step (R5, R59). With nothing requested the block does nothing (R280) and never halts (R294). -/
def step (s : State) : Host.Outcome State Fault Refusal :=
  match s.pending with
  | [] => .next s
  | op :: rest => perform op { s with pending := rest }

/-- `s` with the instruction whose table bits are `w` where the next step fetches it. Bits that are no row's packet are offered to the
serial receiver as raw bytes, which its search discards. -/
def State.withFetchWord (s : State) (nbits w : Nat) : State :=
  match decodeTableBytes (tableBytes nbits w) with
  | some (k, i) => s.offerPacket k (encode i)
  | none => s.offerPacket .leds (tableBytes nbits w)

end Sys2Proof.Machine
end

