-- ==== Sys2Proof/Safety.lean ====
section
/-! DEFINITION. What counts as a legal state and a safe run, in the terms the statements use: the invariants of R39, requests, noise, and
transmission errors. -/

namespace Sys2Proof.Machine

/-! ## Requests -/

/-- `s` with `op` requested next. -/
def State.request (s : State) (op : Operation) : State := { s with pending := op :: s.pending }

/-- The operation `op`, requested next in `s`, is performed by one step: it leaves the block `b` and returns `r`. The parameters and the
later requests are as before, and the earlier results stand. -/
def Performs (s : State) (op : Operation) (b : Block) (r : Result) : Prop :=
  step (s.request op) = .next { s with block := b, results := s.results ++ [r] }

/-! ## Invariants -/

/-- The invariants of R39 on a block with parameters `cfg`; (1) holds by the type of `fs`. `bootBuf_length` says that `boot_buf` is an
array of 107 bytes (R30). -/
structure BlockInv (cfg : Config) (b : Block) : Prop where
  /-- R39 (2). -/
  haveSync0_searching : b.haveSync0 = true → b.fs = .searching
  /-- R39 (3). -/
  rxq_le_depth : b.qLen ≤ cfg.rxqDepth
  /-- R39 (4). -/
  txCtr_range : ∀ c : SeqChan, 1 ≤ (b.txCtr.get c).toNat ∧ (b.txCtr.get c).toNat ≤ c.modulus
  /-- R39 (5). -/
  untracked_counts_zero :
    ∀ c : SeqChan, b.haveLast.get c = false → b.accepted.get c.toChan = 0 ∧ b.skipped.get c = 0
  /-- R39 (6). -/
  tracked_accepted_pos : ∀ c : SeqChan, b.haveLast.get c = true → 1 ≤ b.accepted.get c.toChan
  /-- R39 (7), the range. -/
  bootFill_le : b.bootFill ≤ bootLen
  /-- R39 (7), the first implication of R31. -/
  full_is_decided : b.bootFill = bootLen →
    b.bootState = .done ∨ b.bootState = .failed .invalidSync ∨ b.bootState = .failed .invalidCrc
  /-- R39 (7), the second implication of R31. -/
  done_is_full : b.bootState = .done → b.bootFill = bootLen
  /-- R39 (8), counter by counter. -/
  syncFailures_le : b.syncFailures ≤ cfg.counterTop
  accepted_le : ∀ c : Chan, b.accepted.get c ≤ cfg.counterTop
  skipped_le : ∀ c : SeqChan, b.skipped.get c ≤ cfg.counterTop
  corrupted_le : ∀ c : Chan, b.corrupted.get c ≤ cfg.counterTop
  invalid_le : ∀ c : MsgChan, b.invalid.get c ≤ cfg.counterTop
  /-- R30. -/
  bootBuf_length : b.bootBuf.length = bootLen

/-- The machine's invariant. -/
def State.Inv (s : State) : Prop := BlockInv s.cfg s.block

/-- `boot_state = DONE` means that the accumulated bytes are a Link Bootstrap packet that passed both checks (R31). -/
def DoneIsValid (b : Block) : Prop :=
  b.bootState = .done → (∃ i, PacketType.boot.decode b.bootBuf = .instr i) ∧ crcMatches b.bootBuf = true

/-- The states of `boot_state` that only `RESET()` leaves (R31, R226). -/
def BootState.terminal : BootState → Bool
  | .wait => false
  | .done => true
  | .failed _ => true

/-- Every counter of `b'` is at least what it is in `b` (R27). -/
structure CountersLe (b b' : Block) : Prop where
  syncFailures_le : b.syncFailures ≤ b'.syncFailures
  accepted_le : ∀ c, b.accepted.get c ≤ b'.accepted.get c
  skipped_le : ∀ c, b.skipped.get c ≤ b'.skipped.get c
  corrupted_le : ∀ c, b.corrupted.get c ≤ b'.corrupted.get c
  invalid_le : ∀ c, b.invalid.get c ≤ b'.invalid.get c

/-! ## Noise on the serial line -/

/-- No two adjacent bytes of `noise` are the sync pair `AA 55` (R151, C6). -/
def NoSyncPair (noise : List Byte) : Prop :=
  ∀ i, i + 1 < noise.length → ¬ (byteAt noise i = sync0 ∧ byteAt noise (i + 1) = sync1)

/-! ## Transmission errors (R124, R126) -/

/-- Bytewise XOR of two byte sequences. -/
def xorBytes (a e : List Byte) : List Byte := List.zipWith (· ^^^ ·) a e

/-- Bit `p` of a byte sequence in wire order, the most significant bit of each byte first. -/
def wireBit (s : List Byte) (p : Nat) : Bool := (byteAt s (p / 8)).getLsbD (7 - p % 8)

/-- The sequence with bit `p` (wire order) flipped. -/
def flipBit (s : List Byte) (p : Nat) : List Byte := s.modify (p / 8) (· ^^^ (0x80#8 >>> (p % 8)))

/-- The number of set bits of a byte sequence. -/
def setBits (s : List Byte) : Nat := (List.range (8 * s.length)).countP (wireBit s)

/-! ## A link with losses (R207) -/

/-- The counter a sender's next frame carries after `k` more frames, starting from counter `v`. -/
def ctrAfter (m : Nat) : Nat → Nat → Nat
  | 0, v => v
  | k + 1, v => ctrAfter m k (nextCtr v m)

/-- The receiving block after a session on channel `c` in which the sender, about to send counter `v`, loses `k` frames before each frame that
is accepted, `k` running through the list. -/
def lossySession (cfg : Config) (c : SeqChan) : Nat → List Nat → Block → Block
  | _, [], b => b
  | v, k :: ks, b =>
    lossySession cfg c (nextCtr (ctrAfter c.modulus k v) c.modulus) ks
      (track cfg b c (BitVec.ofNat 8 (ctrAfter c.modulus k v))).1

end Sys2Proof.Machine
end

