-- ==== Sys2Proof/Certificates/Slice0/Obligations.lean ====
section
/-! DEFINITION. The statements for the provers, one definition each. The docstrings name the rules of spec/ they formalise. -/

open Sys2Proof Sys2Proof.Machine

/-! ## Encoding -/

/-- R84 to R88, R105, R106: decoding the bytes of any packet, under its own type or by the opcode table alone, gives every field back. -/
def Obligations.DecodeEncodeAgree : Prop :=
  ∀ i : Instr, i.wellFormed = true → i.packet.decode (encode i) = .instr i ∧ decode (encode i) = some i

/-- R105, R106: bytes that decode are exactly the encoding of the packet they decode to, which is well formed and of the expected type:
no bit of a packet is dropped or misread as another field's. -/
def Obligations.EncodeDecodeAgree : Prop :=
  ∀ (k : PacketType) (bytes : List Byte) (i : Instr), k.decode bytes = .instr i →
    i.packet = k ∧ i.wellFormed = true ∧ encode i = bytes

/-- R105, R51: a byte sequence is decoded as type `k` exactly when its length and its first two wire bytes are the listed ones. -/
def Obligations.DecodedExactlyWhenLengthAndStartFit : Prop :=
  ∀ (k : PacketType) (bytes : List Byte),
    (∃ i, k.decode bytes = .instr i) ↔
      ∃ tail, match k with
        | .leds => bytes = 0xAA#8 :: 0x55#8 :: tail ∧ tail.length = 198
        | .ledd => bytes = 0x55#8 :: 0xAA#8 :: tail ∧ tail.length = 199
        | .param => bytes = 0x55#8 :: 0xAA#8 :: tail ∧ tail.length = 15
        | .btn => bytes = 0xA5#8 :: 0x5A#8 :: tail ∧ tail.length = 5
        | .boot => bytes = 0xCC#8 :: 0xDD#8 :: tail ∧ tail.length = 105

/-- Words written out from R86, R87 and R105 decode to the packets they stand for. -/
def Obligations.WrittenOutPacketsDecode : Prop :=
  PacketType.btn.decode [0xA5#8, 0x5A#8, 1#8, 0#8, 0#8, 1#8, 0x6C#8] = .instr (.btn 1 0 0 1 0x6C) ∧
  PacketType.param.decode
      [0x55#8, 0xAA#8, 0xEE#8, 0x00#8, 0x01#8, 0x00#8, 0xC0#8, 0x7F#8, 0xFF#8, 0xFF#8, 0xFF#8, 0xFF#8, 0x00#8, 0x00#8, 0x00#8, 0x80#8, 0x34#8]
    = .instr (.param 0xEE 0x00 0x7FC00001 0xFFFFFFFF 0x80000000 0x34) ∧
  PacketType.btn.decode [0x5A#8, 0xA5#8, 1#8, 0#8, 0#8, 1#8, 0x6C#8] = .rejected .wrongStart ∧
  PacketType.btn.decode [0xA5#8, 0x5A#8, 1#8, 0#8, 0#8, 1#8] = .rejected .wrongLength

/-- R82: a 16-bit and a 32-bit field are assembled from their bytes, least significant first, and stored back the same way. -/
def Obligations.FieldsAreLittleEndian : Prop :=
  (∀ b0 b1 : Byte, (le16 b0 b1).toNat = b0.toNat + 256 * b1.toNat ∧ store16 (le16 b0 b1) = [b0, b1]) ∧
  (∀ v : U16, lo8 v = BitVec.ofNat 8 (v.toNat % 256) ∧ hi8 v = BitVec.ofNat 8 (v.toNat / 256) ∧ le16 (lo8 v) (hi8 v) = v) ∧
  (∀ b0 b1 b2 b3 : Byte,
    (le32 b0 b1 b2 b3).toNat = b0.toNat + 2 ^ 8 * b1.toNat + 2 ^ 16 * b2.toNat + 2 ^ 24 * b3.toNat ∧
      store32 (le32 b0 b1 b2 b3) = [b0, b1, b2, b3]) ∧
  (∀ (w : U32) (k : Nat), k < 4 → (store32 w).getD k 0 = BitVec.ofNat 8 (w.toNat / 2 ^ (8 * k) % 256)) ∧
  (∀ w : U32, le32 (byteOf32 w 0) (byteOf32 w 1) (byteOf32 w 2) (byteOf32 w 3) = w)

/-- The model's choice (log entry 6): the instruction the opcode table's bits stand for is what the very next step runs. -/
def Obligations.FetchWordRunsNext : Prop :=
  ∀ (s : State) (nbits w : Nat) (i : Instr), s.block.bootBuf.length = bootLen → decodeTableWord nbits w = some i →
    step (s.withFetchWord nbits w) =
      exec i (match i with
        | .leds _ _ _ => { s with block := { s.block with fs := .reading, haveSync0 := false } }
        | .boot _ _ _ _ _ _ =>
          { s with block := { s.block with bootBuf := encode i, bootFill := bootLen, bootState := .wait } }
        | _ => s)

/-! ## CRC-8 -/

/-- R121: the step is the XOR of the input byte followed by eight shifts, the polynomial XORed in exactly when the bit shifted out is 1
(these two points R121 marks as general knowledge; log entry 9). -/
def Obligations.CrcStepShiftsEightTimes : Prop :=
  ∀ c b : Byte, crc8Step c b =
    (fun r : Byte => if r.getLsbD 7 then (r <<< 1) ^^^ 0x07#8 else r <<< 1)^[8] (c ^^^ b)

/-- R129: the table form. `T[i] = crc8_step(0, i)` is the printed table, a permutation with `T[0] = 0`, and the step and the whole CRC are
look-ups in it. -/
def Obligations.CrcTableForm : Prop :=
  (∀ i : Byte, crcTable i = crc8Step 0 i) ∧ (∀ c b : Byte, crc8Step c b = crcTable (c ^^^ b)) ∧
  (∀ bytes : List Byte, crc8 bytes = bytes.foldl (fun c b => crcTable (c ^^^ b)) 0) ∧
  Function.Bijective crcTable ∧ crcTable 0 = 0

/-- R124: linearity of the step and of the CRC of sequences of the same length, and its consequence: whether a corrupted packet passes the
check depends only on the error pattern. -/
def Obligations.CrcIsLinear : Prop :=
  (∀ c b : Byte, crc8Step c b = crc8Step (c ^^^ b) 0) ∧
  (∀ c d : Byte, crc8Step (c ^^^ d) 0 = crc8Step c 0 ^^^ crc8Step d 0) ∧
  (∀ a b : List Byte, a.length = b.length → crc8 (xorBytes a b) = crc8 a ^^^ crc8 b) ∧
  (∀ packet e : List Byte, packet ≠ [] → packet.length = e.length → crcMatches packet = true →
    (crcMatches (xorBytes packet e) = true ↔ crc8 e.dropLast = e.getLastD 0))

/-- R125: for every byte sequence, appending its CRC gives the CRC zero; so comparing the CRC of a whole packet with zero is the same
check. -/
def Obligations.CrcZeroResidue : Prop :=
  (∀ bytes : List Byte, crc8 (bytes ++ [crc8 bytes]) = 0x00#8) ∧
  (∀ packet : List Byte, crcMatches packet = true ↔ crc8 packet = 0x00#8)

/-- R122, R127, R128: the empty sequence; leading zeros are not seen; a trailing zero is one more step, which is not the identity. -/
def Obligations.CrcOfZeros : Prop :=
  crc8 [] = 0x00#8 ∧ (∀ n : Nat, crc8 (List.replicate n 0) = 0x00#8) ∧
  (∀ (n : Nat) (bytes : List Byte), crc8 (List.replicate n 0 ++ bytes) = crc8 bytes) ∧
  (∀ bytes : List Byte, crc8 (bytes ++ [0]) = crc8Step (crc8 bytes) 0) ∧
  crc8 [0x01#8] = 0x07#8 ∧ crc8 [0x01#8, 0x00#8] = 0x15#8

/-- R126 (a): flipping any one bit of a sequence with a matching CRC byte, at any position of any length, makes the check fail. -/
def Obligations.CrcDetectsEverySingleBit : Prop :=
  ∀ (packet : List Byte) (p : Nat), crcMatches packet = true → p < 8 * packet.length →
    crcMatches (flipBit packet p) = false

/-- R126 (b): every error confined to eight consecutive bit positions is detected. -/
def Obligations.CrcDetectsShortBursts : Prop :=
  ∀ (packet e : List Byte) (p : Nat), crcMatches packet = true → packet.length = e.length → setBits e ≠ 0 →
    (∀ q, wireBit e q = true → p ≤ q ∧ q < p + 8) → crcMatches (xorBytes packet e) = false

/-- R126 (c): every error with an odd number of flipped bits is detected. -/
def Obligations.CrcDetectsOddErrors : Prop :=
  ∀ packet e : List Byte, crcMatches packet = true → packet.length = e.length → setBits e % 2 = 1 →
    crcMatches (xorBytes packet e) = false

/-- R126 (d): two flipped bits exactly 127 positions apart are never detected. -/
def Obligations.CrcMissesPairs127Apart : Prop :=
  ∀ (packet : List Byte) (p : Nat), crcMatches packet = true → p + 127 < 8 * packet.length →
    crcMatches (flipBit (flipBit packet p) (p + 127)) = true

/-- R123: `CRC8` completes in every state, returns the CRC, and changes nothing of the block. -/
def Obligations.Crc8OperationIsPure : Prop :=
  ∀ (s : State) (bytes : List Byte), bytes.length ≤ s.cfg.msgMax →
    Performs s (.crc8 bytes) s.block (.crc (bytes.foldl crc8Step 0))

/-! ## Encoders -/

/-- R141: `ENC_LEDS` emits the 200-byte frame with the counter of the channel, advances that counter as 60 wraps to 1, and changes nothing
else. -/
def Obligations.EncLedsResult : Prop :=
  ∀ (s : State) (pixels : List Byte), pixels.length = 196 →
    Performs s (.encLeds pixels)
      { s.block with txCtr := { s.block.txCtr with leds := BitVec.ofNat 8 (s.block.txCtr.leds.toNat % 60 + 1) } }
      (.packet ([0xAA#8, 0x55#8] ++ pixels ++ [s.block.txCtr.leds] ++
        [crc8 ([0xAA#8, 0x55#8] ++ pixels ++ [s.block.txCtr.leds])]))

/-- R171: `ENC_LEDD` emits the 201-byte message with reserved byte 0x00 and advances only its own counter. -/
def Obligations.EncLeddResult : Prop :=
  ∀ (s : State) (pixels : List Byte), pixels.length = 196 →
    Performs s (.encLedd pixels)
      { s.block with txCtr := { s.block.txCtr with ledd := BitVec.ofNat 8 (s.block.txCtr.ledd.toNat % 60 + 1) } }
      (.packet ([0x55#8, 0xAA#8, s.block.txCtr.ledd, 0x00#8] ++ pixels ++
        [crc8 ([0x55#8, 0xAA#8, s.block.txCtr.ledd, 0x00#8] ++ pixels)]))

/-- R172: `ENC_PARAM` emits the 17-byte message, its words least significant byte first, and advances only its own counter, modulus 255. -/
def Obligations.EncParamResult : Prop :=
  ∀ (s : State) (animType : Byte) (p1 p2 p3 : U32),
    let byte := fun (w : U32) (k : Nat) => BitVec.ofNat 8 (w.toNat / 2 ^ (8 * k) % 256)
    let body := [0x55#8, 0xAA#8, animType, s.block.txCtr.param, byte p1 0, byte p1 1, byte p1 2, byte p1 3,
      byte p2 0, byte p2 1, byte p2 2, byte p2 3, byte p3 0, byte p3 1, byte p3 2, byte p3 3]
    Performs s (.encParam animType p1 p2 p3)
      { s.block with txCtr := { s.block.txCtr with param := BitVec.ofNat 8 (s.block.txCtr.param.toNat % 255 + 1) } }
      (.packet (body ++ [crc8 body]))

/-- R173: `ENC_BTN` emits the 7-byte message with 0x01 for true and 0x00 for false and writes no state. -/
def Obligations.EncBtnResult : Prop :=
  ∀ (s : State) (a b c d : Bool),
    let byte := fun (x : Bool) => if x then 0x01#8 else 0x00#8
    Performs s (.encBtn a b c d) s.block
      (.packet ([0xA5#8, 0x5A#8, byte a, byte b, byte c, byte d] ++ [crc8 [0xA5#8, 0x5A#8, byte a, byte b, byte c, byte d]]))

/-- R221, R104: `ENC_BOOT` emits the 107-byte packet, ports least significant byte first, and writes no state. -/
def Obligations.EncBootResult : Prop :=
  ∀ (s : State) (ssid password ip : List Byte) (ledPort buttonPort : U16),
    ssid.length = 32 → password.length = 64 → ip.length = 4 →
    let body := [0xCC#8, 0xDD#8] ++ ssid ++ password ++ ip ++
      [BitVec.ofNat 8 (ledPort.toNat % 256), BitVec.ofNat 8 (ledPort.toNat / 256),
        BitVec.ofNat 8 (buttonPort.toNat % 256), BitVec.ofNat 8 (buttonPort.toNat / 256)]
    Performs s (.encBoot ssid password ip ledPort buttonPort) s.block (.packet (body ++ [crc8 body]))

/-! ## The queue and the deframer -/

/-- R53: `RX_PUSH` makes the byte the newest of a queue that is not full, and a full queue refuses it with nothing changed. (That the
refusal is a completed step which returns a refusal is the model's choice, log entry 3.) -/
def Obligations.RxPushQueuesOrRefuses : Prop :=
  ∀ (s : State) (v : Byte),
    (s.block.rxq.length < s.cfg.rxqDepth →
      Performs s (.rxPush v) { s.block with rxq := s.block.rxq ++ [v] } .nothing) ∧
    (¬ s.block.rxq.length < s.cfg.rxqDepth →
      Performs s (.rxPush v) s.block (.refusedRequest .queueFull))

/-- R52, R148: in one step, `RESET` apart, `rxq` loses bytes only at its oldest end and gains only the byte pushed, at its newest end. -/
def Obligations.QueueIsFifo : Prop :=
  ∀ s t : State, step s = .next t → s.pending.head? ≠ some .reset →
    (∃ n, t.block.rxq = s.block.rxq.drop n) ∨
      (∃ v, s.pending.head? = some (.rxPush v) ∧ t.block.rxq = s.block.rxq ++ [v])

/-- R144: the model's search is the pseudocode's loop: run for enough passes, the loop as the rule writes it ends, with the same outcome, the
same queue and the same flag. -/
def Obligations.SearchIsTheSpecLoop : Prop :=
  ∀ (budget : Nat) (q : List Byte) (n : Nat) (h : Bool) (fuel : Nat), 2 * q.length + 2 ≤ fuel →
    searchLoop budget fuel ⟨q, n, h⟩ = some (search budget q n h)

/-- R144, R145, R150: in READING with fewer than 198 bytes, `RECV_LEDS` answers `NoData(FrameIncomplete)` and changes nothing; a pair found behind
noise with fewer than 198 bytes after it leaves the deframer in READING, the noise and the pair consumed. -/
def Obligations.ReadingWaitsForTheWholePayload : Prop :=
  (∀ s : State, s.block.fs = .reading → s.block.rxq.length < 198 →
    Performs s .recvLeds s.block (.rx (.noData .frameIncomplete))) ∧
  (∀ (s : State) (noise tail : List Byte), s.block.fs = .searching → s.block.haveSync0 = false →
    s.block.rxq = noise ++ [0xAA#8, 0x55#8] ++ tail → NoSyncPair noise → noise.length < s.cfg.searchBudget →
    tail.length < 198 →
    Performs s .recvLeds { s.block with rxq := tail, fs := .reading } (.rx (.noData .frameIncomplete)))

/-- R144, R146, R150: a queue that holds no pair and runs empty before the budget is spent is discarded, a last `AA` is remembered, and no
counter moves; after exactly the budget with a last `AA` the flag still comes first. -/
def Obligations.SearchRunsDry : Prop :=
  ∀ s : State, s.block.fs = .searching → s.block.haveSync0 = false → NoSyncPair s.block.rxq →
    (s.block.rxq.length < s.cfg.searchBudget ∨
      (s.block.rxq.length = s.cfg.searchBudget ∧ s.block.rxq.getLast? = some 0xAA#8)) →
    Performs s .recvLeds
      { s.block with rxq := [], haveSync0 := decide (s.block.rxq.getLast? = some 0xAA#8) }
      (.rx (.noData .empty))

/-- R144, R146, R150, R252: when the budget is spent without a pair, exactly `SEARCH_BUDGET` bytes are gone, `sync_failures` counts one, and the
answer is `NoData(SyncNotFound)`, also when the queue is empty at that moment. -/
def Obligations.SearchExhaustsItsBudget : Prop :=
  ∀ s : State, s.block.fs = .searching → s.block.haveSync0 = false →
    s.cfg.searchBudget ≤ s.block.rxq.length → NoSyncPair (s.block.rxq.take (s.cfg.searchBudget + 1)) →
    ¬ (s.block.rxq.length = s.cfg.searchBudget ∧ s.block.rxq.getLast? = some 0xAA#8) →
    Performs s .recvLeds
      { s.block with
        rxq := s.block.rxq.drop s.cfg.searchBudget
        syncFailures := min (s.block.syncFailures + 1) (2 ^ s.cfg.cntW - 1) }
      (.rx (.noData .syncNotFound))

/-- R144, R146, R150, R23: a remembered `AA`. An empty queue keeps it; a following `55` completes the pair at no cost, and then the deframer
waits for the payload or, when its 198 bytes are there, the step is `exec` of the frame split across the two calls; any other byte drops
the flag and becomes a fresh candidate. -/
def Obligations.CarriedSyncByte : Prop :=
  ∀ s : State, s.block.fs = .searching → s.block.haveSync0 = true →
    (s.block.rxq = [] → Performs s .recvLeds s.block (.rx (.noData .empty))) ∧
    (∀ q, s.block.rxq = 0x55#8 :: q → q.length < 198 →
      Performs s .recvLeds { s.block with rxq := q, haveSync0 := false, fs := .reading } (.rx (.noData .frameIncomplete))) ∧
    (∀ payload tail i, s.block.rxq = 0x55#8 :: payload ++ tail →
      PacketType.leds.decode (0xAA#8 :: 0x55#8 :: payload) = .instr i →
      step (s.request .recvLeds) =
        exec i { s with block := { s.block with rxq := tail, haveSync0 := false, fs := .reading } }) ∧
    (∀ v q, s.block.rxq = v :: q → v ≠ 0x55#8 →
      step (s.request .recvLeds) = step ({ s with block := { s.block with haveSync0 := false } }.request .recvLeds))

/-- R286: one `RECV_LEDS` removes at most `SEARCH_BUDGET + 1 + 198` bytes. -/
def Obligations.RecvLedsWorkIsBounded : Prop :=
  ∀ s t : State, step (s.request .recvLeds) = .next t →
    s.block.rxq.length ≤ t.block.rxq.length + (s.cfg.searchBudget + 1 + 198)

/-- R143, R144, R145: a step runs the decoded serial frame. When the queue holds a 200-byte packet behind at most `SEARCH_BUDGET - 1` bytes of
noise, or its last 198 bytes in READING, the step is `exec` of the decoded packet on the state with those bytes consumed. -/
def Obligations.StepRunsSerialFrame : Prop :=
  (∀ (s : State) (noise frame tail : List Byte) (i : Instr),
    s.block.fs = .searching → s.block.haveSync0 = false → s.block.rxq = noise ++ frame ++ tail →
    NoSyncPair noise → noise.length < s.cfg.searchBudget → PacketType.leds.decode frame = .instr i →
    step (s.request .recvLeds) = exec i { s with block := { s.block with rxq := tail, fs := .reading } }) ∧
  (∀ (s : State) (payload tail : List Byte) (i : Instr),
    s.block.fs = .reading → s.block.rxq = payload ++ tail →
    PacketType.leds.decode (0xAA#8 :: 0x55#8 :: payload) = .instr i →
    step (s.request .recvLeds) = exec i { s with block := { s.block with rxq := tail } })

/-- R147: the meaning of a serial LED frame, for every frame and every state. With the CRC of the 199 bytes equal to the last byte it is
accepted and tracked; otherwise it is counted as corrupted, the tracker is untouched and no payload is returned. Either way the
deframer is back in SEARCHING. -/
def Obligations.LedsFrameValidated : Prop :=
  ∀ (pixels : List Byte) (ctr crc : Byte) (s : State),
    let b := { s.block with fs := FrameState.searching }
    (crc8 ([0xAA#8, 0x55#8] ++ pixels ++ [ctr]) = crc →
      exec (.leds pixels ctr crc) s = .next { s with
        block := (track s.cfg b .leds ctr).1
        results := s.results ++ [.rx (.frameAccepted (.leds pixels ctr) (track s.cfg b .leds ctr).2)] }) ∧
    (crc8 ([0xAA#8, 0x55#8] ++ pixels ++ [ctr]) ≠ crc →
      exec (.leds pixels ctr crc) s = .next { s with
        block := { b with corrupted :=
          { b.corrupted with leds := min (b.corrupted.leds + 1) (2 ^ s.cfg.cntW - 1) } }
        results := s.results ++ [.rx (.frameRejected .frameCorrupt)] })

/-- R151 (a), R146: `N` bytes of noise without a sync pair, then a complete packed frame, all queued. After exactly `N / SEARCH_BUDGET` calls that
answer `NoData(SyncNotFound)` the next call accepts the frame; what follows the frame stays queued. -/
def Obligations.ResynchronisesAfterNoise : Prop :=
  ∀ (s : State) (noise pixels tail : List Byte) (ctr : Byte) (n : Nat),
    s.block.fs = .searching → s.block.haveSync0 = false → pixels.length = 196 → NoSyncPair noise →
    s.block.rxq = noise ++ packLeds pixels ctr ++ tail → s.block.syncFailures ≤ 2 ^ s.cfg.cntW - 1 →
    n = noise.length / s.cfg.searchBudget →
    let b := { s.block with rxq := tail, syncFailures := min (s.block.syncFailures + n) (2 ^ s.cfg.cntW - 1) }
    Host.Core.run Sys2Proof.core (n + 1) { s with pending := List.replicate (n + 1) .recvLeds ++ s.pending } =
      .next { s with
        block := (track s.cfg b .leds ctr).1
        results := s.results ++ List.replicate n (.rx (.noData .syncNotFound)) ++
          [.rx (.frameAccepted (.leds pixels ctr) (track s.cfg b .leds ctr).2)] }

/-! ## The datagram codec -/

/-- R174, R105: a step runs the decoded message: length and magic passed, the step is `exec` of the decoded packet on the state as it is. -/
def Obligations.StepRunsMessage : Prop :=
  ∀ (s : State) (c : MsgChan) (msg : List Byte) (i : Instr), c.packet.decode msg = .instr i →
    step (s.request (c.decode msg)) = exec i s

/-- R174, R181: a message of the wrong length is `FrameInvalid(Length)` whatever its bytes; one of the right length with the wrong magic is
`FrameInvalid(Magic)`. Only `invalid[c]` moves. -/
def Obligations.MessageRejectedByLengthThenMagic : Prop :=
  ∀ (s : State) (c : MsgChan) (msg : List Byte), msg.length ≤ s.cfg.msgMax →
    let length := match c with | .ledd => 201 | .param => 17 | .btn => 7
    let magic := match c with | .ledd => 0xAA55#16 | .param => 0xAA55#16 | .btn => 0x5AA5#16
    let b := { s.block with invalid := s.block.invalid.set c (min (s.block.invalid.get c + 1) (2 ^ s.cfg.cntW - 1)) }
    (msg.length ≠ length → Performs s (c.decode msg) b (.rx (.frameRejected (.frameInvalid .length)))) ∧
    (msg.length = length → le16 (byteAt msg 0) (byteAt msg 1) ≠ magic →
      Performs s (c.decode msg) b (.rx (.frameRejected (.frameInvalid .magic))))

/-- R175, R174: the meaning of a datagram LED frame whose length and magic are right. The reserved byte is covered by the CRC and otherwise
ignored. -/
def Obligations.LeddMessageValidated : Prop :=
  ∀ (ctr rsv crc : Byte) (pixels : List Byte) (s : State),
    (crc8 ([0x55#8, 0xAA#8, ctr, rsv] ++ pixels) = crc →
      exec (.ledd ctr rsv pixels crc) s = .next { s with
        block := (track s.cfg s.block .ledd ctr).1
        results := s.results ++ [.rx (.frameAccepted (.ledd pixels ctr) (track s.cfg s.block .ledd ctr).2)] }) ∧
    (crc8 ([0x55#8, 0xAA#8, ctr, rsv] ++ pixels) ≠ crc →
      exec (.ledd ctr rsv pixels crc) s = .next { s with
        block := { s.block with corrupted :=
          { s.block.corrupted with ledd := min (s.block.corrupted.ledd + 1) (2 ^ s.cfg.cntW - 1) } }
        results := s.results ++ [.rx (.frameRejected .frameCorrupt)] })

/-- R176, R174, R96: the meaning of a Parameter Update whose length and magic are right; the three words pass unchanged. -/
def Obligations.ParamMessageValidated : Prop :=
  ∀ (anim ctr crc : Byte) (p1 p2 p3 : U32) (s : State),
    let body := [0x55#8, 0xAA#8, anim, ctr] ++ store32 p1 ++ store32 p2 ++ store32 p3
    (crc8 body = crc →
      exec (.param anim ctr p1 p2 p3 crc) s = .next { s with
        block := (track s.cfg s.block .param ctr).1
        results := s.results ++
          [.rx (.frameAccepted (.param anim ctr p1 p2 p3) (track s.cfg s.block .param ctr).2)] }) ∧
    (crc8 body ≠ crc →
      exec (.param anim ctr p1 p2 p3 crc) s = .next { s with
        block := { s.block with corrupted :=
          { s.block.corrupted with param := min (s.block.corrupted.param + 1) (2 ^ s.cfg.cntW - 1) } }
        results := s.results ++ [.rx (.frameRejected .frameCorrupt)] })

/-- R177, R174: the meaning of a Button Frame whose length and magic are right: counted, returned as received with gap 0, no tracker. -/
def Obligations.BtnMessageValidated : Prop :=
  ∀ (a b c d crc : Byte) (s : State),
    (crc8 [0xA5#8, 0x5A#8, a, b, c, d] = crc →
      exec (.btn a b c d crc) s = .next { s with
        block := { s.block with accepted :=
          { s.block.accepted with btn := min (s.block.accepted.btn + 1) (2 ^ s.cfg.cntW - 1) } }
        results := s.results ++ [.rx (.frameAccepted (.btn a b c d) 0)] }) ∧
    (crc8 [0xA5#8, 0x5A#8, a, b, c, d] ≠ crc →
      exec (.btn a b c d crc) s = .next { s with
        block := { s.block with corrupted :=
          { s.block.corrupted with btn := min (s.block.corrupted.btn + 1) (2 ^ s.cfg.cntW - 1) } }
        results := s.results ++ [.rx (.frameRejected .frameCorrupt)] })

/-- R180, R224: round trip. What a pack function builds from any field values is accepted by its decoder with exactly those values, the
reserved byte of `LEDD` apart; a packed serial frame alone in the queue is accepted by `RECV_LEDS`; and a packed bootstrap packet at the
start of the stream is done by one `BOOT_POLL` with exactly its fields, what follows it staying queued. -/
def Obligations.PackedPacketsAreAccepted : Prop :=
  ∀ s : State,
    (∀ (pixels : List Byte) (ctr rsv : Byte), pixels.length = 196 →
      Performs s (.decLedd (packLedd pixels ctr rsv)) (track s.cfg s.block .ledd ctr).1
        (.rx (.frameAccepted (.ledd pixels ctr) (track s.cfg s.block .ledd ctr).2))) ∧
    (∀ (anim ctr : Byte) (p1 p2 p3 : U32),
      Performs s (.decParam (packParam anim ctr p1 p2 p3)) (track s.cfg s.block .param ctr).1
        (.rx (.frameAccepted (.param anim ctr p1 p2 p3) (track s.cfg s.block .param ctr).2))) ∧
    (∀ a b c d : Byte,
      Performs s (.decBtn (packBtn a b c d))
        { s.block with accepted := s.block.accepted.set .btn (satInc s.cfg (s.block.accepted.get .btn) 1) }
        (.rx (.frameAccepted (.btn a b c d) 0))) ∧
    (∀ (pixels : List Byte) (ctr : Byte), pixels.length = 196 → s.block.fs = .searching →
      s.block.haveSync0 = false → s.block.rxq = packLeds pixels ctr →
      Performs s .recvLeds (track s.cfg { s.block with rxq := [] } .leds ctr).1
        (.rx (.frameAccepted (.leds pixels ctr) (track s.cfg { s.block with rxq := [] } .leds ctr).2))) ∧
    (∀ (ssid password ip tail : List Byte) (ledPort buttonPort : U16),
      ssid.length = 32 → password.length = 64 → ip.length = 4 → s.block.bootState = .wait → s.block.bootFill = 0 →
      s.block.bootBuf.length = 107 → s.block.rxq = packBoot ssid password ip ledPort buttonPort ++ tail →
      Performs s .bootPoll
        { s.block with
          rxq := tail
          bootBuf := packBoot ssid password ip ledPort buttonPort
          bootFill := 107
          bootState := .done }
        (.boot (.done ⟨ssid, password, ip, ledPort, buttonPort⟩)))

/-- R178: a rejected message moves nothing but one of its channel's two reject counters, and delivers no payload. -/
def Obligations.RejectionMovesOnlyItsCounter : Prop :=
  ∀ (s t : State) (c : MsgChan) (msg : List Byte) (reason : RejectReason),
    step (s.request (c.decode msg)) = .next t → t.results = s.results ++ [.rx (.frameRejected reason)] →
    let corrupted := min (s.block.corrupted.get c.toChan + 1) (2 ^ s.cfg.cntW - 1)
    let invalid := min (s.block.invalid.get c + 1) (2 ^ s.cfg.cntW - 1)
    t.block = if reason = .frameCorrupt
      then { s.block with corrupted := s.block.corrupted.set c.toChan corrupted }
      else { s.block with invalid := s.block.invalid.set c invalid }

/-- R179: a decoder writes only the registers of its own channel: the serial path, the bootstrap, the transmit counters and every other
channel are untouched. -/
def Obligations.MessageChannelsDoNotInterfere : Prop :=
  ∀ (s t : State) (c : MsgChan) (msg : List Byte), step (s.request (c.decode msg)) = .next t →
    t.block.rxq = s.block.rxq ∧ t.block.fs = s.block.fs ∧ t.block.haveSync0 = s.block.haveSync0 ∧
    t.block.syncFailures = s.block.syncFailures ∧ t.block.txCtr = s.block.txCtr ∧
    t.block.bootBuf = s.block.bootBuf ∧ t.block.bootFill = s.block.bootFill ∧ t.block.bootState = s.block.bootState ∧
    (∀ d : SeqChan, d.toChan ≠ c.toChan → t.block.last.get d = s.block.last.get d ∧
      t.block.haveLast.get d = s.block.haveLast.get d ∧ t.block.skipped.get d = s.block.skipped.get d) ∧
    (∀ d : Chan, d ≠ c.toChan → t.block.accepted.get d = s.block.accepted.get d ∧
      t.block.corrupted.get d = s.block.corrupted.get d) ∧
    (∀ d : MsgChan, d ≠ c → t.block.invalid.get d = s.block.invalid.get d)

/-- R179: what a decoder returns depends only on its operand and on the tracker registers of its own channel. -/
def Obligations.MessageResultDependsOnOwnChannel : Prop :=
  ∀ (s s' t t' : State) (c : MsgChan) (msg : List Byte), s.cfg = s'.cfg →
    (∀ d : SeqChan, d.toChan = c.toChan → s.block.last.get d = s'.block.last.get d ∧
      s.block.haveLast.get d = s'.block.haveLast.get d) →
    step (s.request (c.decode msg)) = .next t → step (s'.request (c.decode msg)) = .next t' →
    t.results.drop s.results.length = t'.results.drop s'.results.length

/-- R126 (a), C7, V41-8: a packet with one flipped bit is not accepted, whichever bit it is. A message is `FrameInvalid(Magic)` when the bit
lies in the magic and `FrameCorrupt` otherwise. A serial frame flipped after its sync bytes is `FrameCorrupt`; one flipped in a sync byte,
with nothing after it, is not found: the answer is a `NoData`, and nothing but the queue, the deframer and `sync_failures` can change;
when its flipped bytes hold no sync pair and the budget exceeds 200 it is `NoData(Empty)`, all its bytes are discarded and no counter
moves. A bootstrap packet is `BootstrapInvalid(Sync)` when the bit lies in a sync byte and `BootstrapInvalid(Crc)` otherwise. -/
def Obligations.FlippedBitIsNeverAccepted : Prop :=
  (∀ (s : State) (c : MsgChan) (i : Instr) (p : Nat), i.wellFormed = true → i.packet = c.packet →
    crcMatches (encode i) = true → p < 8 * (encode i).length →
    Performs s (c.decode (flipBit (encode i) p))
      (if p < 16 then { s.block with invalid := s.block.invalid.set c (satInc s.cfg (s.block.invalid.get c) 1) }
        else { s.block with corrupted :=
          s.block.corrupted.set c.toChan (satInc s.cfg (s.block.corrupted.get c.toChan) 1) })
      (.rx (.frameRejected (if p < 16 then .frameInvalid .magic else .frameCorrupt)))) ∧
  (∀ (s : State) (i : Instr) (p : Nat) (tail : List Byte), i.wellFormed = true → i.packet = .leds →
    crcMatches (encode i) = true → 16 ≤ p → p < 8 * (encode i).length → s.block.fs = .searching →
    s.block.haveSync0 = false → s.block.rxq = flipBit (encode i) p ++ tail →
    Performs s .recvLeds
      { s.block with
        rxq := tail
        corrupted := s.block.corrupted.set .leds (satInc s.cfg (s.block.corrupted.get .leds) 1) }
      (.rx (.frameRejected .frameCorrupt))) ∧
  (∀ (s : State) (i : Instr) (p : Nat), i.wellFormed = true → i.packet = .leds → p < 16 → s.block.fs = .searching →
    s.block.haveSync0 = false → s.block.rxq = flipBit (encode i) p →
    (∃ cause q fs h n,
      Performs s .recvLeds { s.block with rxq := q, fs := fs, haveSync0 := h, syncFailures := n }
        (.rx (.noData cause))) ∧
    (NoSyncPair (flipBit (encode i) p) → 200 < s.cfg.searchBudget →
      Performs s .recvLeds
        { s.block with rxq := [], haveSync0 := decide ((flipBit (encode i) p).getLast? = some 0xAA#8) }
        (.rx (.noData .empty)))) ∧
  (∀ (s : State) (i : Instr) (p : Nat) (tail : List Byte), i.wellFormed = true → i.packet = .boot →
    crcMatches (encode i) = true → p < 8 * (encode i).length → s.block.bootState = .wait →
    s.block.bootFill = 0 → s.block.bootBuf.length = 107 → s.block.rxq = flipBit (encode i) p ++ tail →
    Performs s .bootPoll
      { s.block with
        rxq := tail
        bootBuf := flipBit (encode i) p
        bootFill := 107
        bootState := .failed (if p < 16 then .invalidSync else .invalidCrc) }
      (.boot (.failed (if p < 16 then .invalidSync else .invalidCrc))))

/-! ## The sequence tracker -/

/-- R201: `Track(c, r)`, register by register, and the gap it returns. -/
def Obligations.TrackFollowsTheRule : Prop :=
  ∀ (cfg : Config) (b : Block) (c : SeqChan) (r : Byte),
    let m := match c with | .leds => 60 | .ledd => 60 | .param => 255
    let expected := (b.last.get c).toNat % m + 1
    let gap :=
      if b.haveLast.get c = true ∧ r.toNat ≠ expected then
        (if r.toNat ≥ expected then r.toNat - expected else (m - expected) + r.toNat)
      else 0
    (track cfg b c r).2 = gap ∧
    (track cfg b c r).1 =
      { b with
        last := b.last.set c r
        haveLast := b.haveLast.set c true
        accepted := b.accepted.set c.toChan (min (b.accepted.get c.toChan + 1) (2 ^ cfg.cntW - 1))
        skipped := if b.haveLast.get c = true ∧ r.toNat ≠ expected
          then b.skipped.set c (min (b.skipped.get c + gap) (2 ^ cfg.cntW - 1)) else b.skipped }

/-- R203 (a) to (f): the range of the expected counter; the range of the gap and its largest value; for in-range counters the gap is the number
of counters strictly between, a plain residue, zero exactly in sequence; an out-of-range counter above the modulus is not reduced. -/
def Obligations.GapArithmetic : Prop :=
  ∀ (c : SeqChan) (l r : Byte),
    let m := c.modulus
    let e := nextCtr l.toNat m
    let gap := if r.toNat = e then 0 else forwardDistance m e r.toNat
    (1 ≤ e ∧ e ≤ m) ∧
    (e ≤ r.toNat → r.toNat ≠ e → gap = r.toNat - e ∧ 1 ≤ gap ∧ gap ≤ 254) ∧
    (r.toNat < e → gap = (m - e) + r.toNat ∧ gap ≤ m - 1 ∧
      (gap = m - 1 ↔ e = r.toNat + 1) ∧ (gap = 0 ↔ r.toNat = 0 ∧ e = m)) ∧
    (1 ≤ l.toNat → l.toNat ≤ m → 1 ≤ r.toNat → r.toNat ≤ m →
      gap = (r.toNat + m - e) % m ∧ gap = (r.toNat + m + m - l.toNat - 1) % m ∧ gap ≤ m - 1 ∧ (gap = 0 ↔ r.toNat = e)) ∧
    gap ≤ 254 ∧
    (r.toNat ≤ m → gap = (r.toNat + m - e) % m) ∧
    (m < r.toNat → gap = r.toNat - e)

/-- R206, R90: from 1 the transmit counter runs through 1, 2, …, M, 1, 2, …; it never leaves 1..M. -/
def Obligations.TransmitCounterCycles : Prop :=
  (∀ (c : SeqChan) (n : Nat), ctrAfter c.modulus n 1 = n % c.modulus + 1) ∧
  (∀ (c : SeqChan) (v : Nat), 1 ≤ nextCtr v c.modulus ∧ nextCtr v c.modulus ≤ c.modulus) ∧
  (∀ (c : SeqChan) (v : Nat), 1 ≤ v → v < c.modulus → nextCtr v c.modulus = v + 1) ∧
  (∀ c : SeqChan, nextCtr c.modulus c.modulus = 1)

/-- R207, over `Track` and `NextCtr`: for a sender that steps its counter with `NextCtr` and a receiver that runs `Track` on the counters that
arrive, with `k` frames lost before each accepted one, `accepted[c]` grows by the number of accepted frames and `skipped[c]` by the sum of
`k mod M`, the losses before the first frame not counted: whole cycles of loss are invisible. -/
def Obligations.SessionCountsLosses : Prop :=
  ∀ (cfg : Config) (c : SeqChan) (v : Nat) (ks : List Nat) (b : Block),
    b.haveLast.get c = false → 1 ≤ v → v ≤ c.modulus →
    b.accepted.get c.toChan + ks.length ≤ 2 ^ cfg.cntW - 1 →
    b.skipped.get c + (ks.tail.map (· % c.modulus)).sum ≤ 2 ^ cfg.cntW - 1 →
    (lossySession cfg c v ks b).accepted.get c.toChan = b.accepted.get c.toChan + ks.length ∧
    (lossySession cfg c v ks b).skipped.get c = b.skipped.get c + (ks.tail.map (· % c.modulus)).sum

/-! ## The bootstrap -/

/-- R223: while the packet is incomplete, `BOOT_POLL` takes every byte that is there and reports the fill. -/
def Obligations.BootPollAccumulates : Prop :=
  ∀ s : State, s.block.bootState = .wait → s.block.bootFill + s.block.rxq.length < 107 →
    s.block.bootBuf.length = 107 →
    ∃ buf : List Byte, buf.length = 107 ∧
      (∀ j, byteAt buf j = if s.block.bootFill ≤ j ∧ j < s.block.bootFill + s.block.rxq.length
        then byteAt s.block.rxq (j - s.block.bootFill) else byteAt s.block.bootBuf j) ∧
      Performs s .bootPoll
        { s.block with rxq := [], bootBuf := buf, bootFill := s.block.bootFill + s.block.rxq.length }
        (.boot (.pending (s.block.bootFill + s.block.rxq.length)))

/-- R223, R224: a step runs the decoded bootstrap packet. When the missing bytes are there, exactly they are taken and what follows them stays
queued; if the 107 bytes start with the sync pair the step is `exec` of the packet they are, otherwise it is
`BootstrapInvalid(Sync)`. -/
def Obligations.StepRunsBootPacket : Prop :=
  ∀ (s : State) (missing tail : List Byte), s.block.bootState = .wait → s.block.bootBuf.length = 107 →
    s.block.rxq = missing ++ tail → s.block.bootFill + missing.length = 107 →
    let buf := s.block.bootBuf.take s.block.bootFill ++ missing
    let b := { s.block with rxq := tail, bootBuf := buf, bootFill := 107 }
    (∀ i, PacketType.boot.decode buf = .instr i → step (s.request .bootPoll) = exec i { s with block := b }) ∧
    (¬ (byteAt buf 0 = 0xCC#8 ∧ byteAt buf 1 = 0xDD#8) →
      Performs s .bootPoll { b with bootState := .failed .invalidSync } (.boot (.failed .invalidSync)))

/-- R224: the meaning of an accumulated packet whose sync bytes are right: DONE with its fields, or FAILED(InvalidCrc). No counter moves. -/
def Obligations.BootPacketValidated : Prop :=
  ∀ (ssid password ip : List Byte) (ledPort buttonPort : U16) (crc : Byte) (s : State),
    let body := [0xCC#8, 0xDD#8] ++ ssid ++ password ++ ip ++ store16 ledPort ++ store16 buttonPort
    (crc8 body = crc →
      exec (.boot ssid password ip ledPort buttonPort crc) s = .next { s with
        block := { s.block with bootState := .done }
        results := s.results ++ [.boot (.done ⟨ssid, password, ip, ledPort, buttonPort⟩)] }) ∧
    (crc8 body ≠ crc →
      exec (.boot ssid password ip ledPort buttonPort crc) s = .next { s with
        block := { s.block with bootState := .failed .invalidCrc }
        results := s.results ++ [.boot (.failed .invalidCrc)] })

/-- R223, R225, R226, D29: in a terminal state `BOOT_POLL` and `BOOT_TIMEOUT` report the stored outcome again and change nothing; while waiting,
`BOOT_TIMEOUT` records the timeout and leaves the partly filled buffer as it is. -/
def Obligations.BootTimeoutAndTerminalPolls : Prop :=
  ∀ s : State,
    (s.block.bootState = .wait →
      Performs s .bootTimeout { s.block with bootState := .failed .timeout } (.boot (.failed .timeout))) ∧
    (s.block.bootState = .done →
      Performs s .bootTimeout s.block (.boot (.done (bootFields s.block.bootBuf))) ∧
      Performs s .bootPoll s.block (.boot (.done (bootFields s.block.bootBuf)))) ∧
    (∀ why, s.block.bootState = .failed why →
      Performs s .bootTimeout s.block (.boot (.failed why)) ∧ Performs s .bootPoll s.block (.boot (.failed why)))

/-- R226, R257: no operation but `RESET()` leaves a terminal `boot_state`, and none changes the accumulated bytes after it. -/
def Obligations.TerminalBootStateIsSticky : Prop :=
  ∀ s t : State, s.block.bootState.terminal = true → s.pending.head? ≠ some .reset → step s = .next t →
    t.block.bootState = s.block.bootState ∧ t.block.bootBuf = s.block.bootBuf ∧ t.block.bootFill = s.block.bootFill

/-- R31: DONE means that the buffer holds a packet that passed both checks. The property is kept by every step from every state that has
it. -/
def Obligations.DoneStaysValid : Prop :=
  ∀ s t : State, DoneIsValid s.block → step s = .next t → DoneIsValid t.block

/-! ## System operations and the whole machine -/

/-- R38, R240: `RESET()` from any state, and power-on, give every item of R20 its reset value; the parameters stay. -/
def Obligations.ResetValues : Prop :=
  let b : Block :=
    { rxq := [], fs := .searching, haveSync0 := false, syncFailures := 0, last := ⟨0, 0, 0⟩,
      haveLast := ⟨false, false, false⟩, accepted := ⟨0, 0, 0, 0⟩, skipped := ⟨0, 0, 0⟩, corrupted := ⟨0, 0, 0, 0⟩,
      invalid := ⟨0, 0, 0⟩, txCtr := ⟨1, 1, 1⟩, bootBuf := List.replicate 107 0, bootFill := 0, bootState := .wait }
  (∀ s : State, Performs s .reset b .nothing) ∧ State.reset.block = b

/-- R241: `STAT_READ` returns the current value of each item it names and changes nothing. -/
def Obligations.StatReadReturnsTheItem : Prop :=
  ∀ s : State, let b := s.block
    Performs s (.statRead .syncFailures) b (.stat (.counter b.syncFailures)) ∧
    (∀ c, Performs s (.statRead (.accepted c)) b (.stat (.counter (b.accepted.get c)))) ∧
    (∀ c, Performs s (.statRead (.corrupted c)) b (.stat (.counter (b.corrupted.get c)))) ∧
    (∀ c, Performs s (.statRead (.skipped c)) b (.stat (.counter (b.skipped.get c)))) ∧
    (∀ c, Performs s (.statRead (.last c)) b (.stat (.byte (b.last.get c)))) ∧
    (∀ c, Performs s (.statRead (.haveLast c)) b (.stat (.flag (b.haveLast.get c)))) ∧
    (∀ c, Performs s (.statRead (.txCtr c)) b (.stat (.byte (b.txCtr.get c)))) ∧
    (∀ c, Performs s (.statRead (.invalid c)) b (.stat (.counter (b.invalid.get c)))) ∧
    Performs s (.statRead .fs) b (.stat (.frameState b.fs)) ∧
    Performs s (.statRead .haveSync0) b (.stat (.flag b.haveSync0)) ∧
    Performs s (.statRead .rxqLen) b (.stat (.size b.rxq.length)) ∧
    Performs s (.statRead .bootState) b (.stat (.bootState b.bootState)) ∧
    Performs s (.statRead .bootFill) b (.stat (.size b.bootFill))

/-- The model's choice (log entry 4), after U8: a request the interface cannot express is refused and changes nothing. -/
def Obligations.InexpressibleRequestsAreRefused : Prop :=
  ∀ (s : State) (op : Operation), op.expressible s.cfg = false →
    Performs s op s.block (.refusedRequest .notExpressible)

/-- R5, R59, R295: every step of every state completes, performs exactly the oldest request, returns exactly one value for it, and never changes a
parameter. (That the requests stand in a list and the values in another is the model's choice, log entry 1.) -/
def Obligations.EveryStepCompletes : Prop :=
  ∀ s : State, ∃ t, step s = .next t ∧ t.cfg = s.cfg ∧ t.pending = s.pending.tail ∧
    (s.pending = [] → t = s) ∧ (s.pending ≠ [] → ∃ r, t.results = s.results ++ [r])

/-- R32, R294: nothing the block does depends on what it returned before: with other earlier results the step does the same. -/
def Obligations.ResultsAreNeverRead : Prop :=
  ∀ (s t : State) (earlier : List Result), step s = .next t →
    step { s with results := earlier } = .next { t with results := earlier ++ t.results.drop s.results.length }

/-- R39: the reset state meets the invariants. -/
def Obligations.ResetMeetsInvariants : Prop := State.reset.Inv ∧ ∀ cfg : Config, BlockInv cfg Block.reset

/-- R39: every step from every state that meets the invariants gives a state that meets them. -/
def Obligations.InvariantsKeptByEveryStep : Prop :=
  ∀ s t : State, s.Inv → step s = .next t → t.Inv

/-- R27: between resets every counter is non-decreasing, and none exceeds its top value. -/
def Obligations.CountersNeverDecrease : Prop :=
  ∀ s t : State, s.Inv → step s = .next t → s.pending.head? ≠ some .reset →
    CountersLe s.block t.block ∧
    t.block.syncFailures ≤ 2 ^ s.cfg.cntW - 1 ∧ (∀ c, t.block.accepted.get c ≤ 2 ^ s.cfg.cntW - 1) ∧
    (∀ c, t.block.skipped.get c ≤ 2 ^ s.cfg.cntW - 1) ∧ (∀ c, t.block.corrupted.get c ≤ 2 ^ s.cfg.cntW - 1) ∧
    (∀ c, t.block.invalid.get c ≤ 2 ^ s.cfg.cntW - 1)
end

