-- ==== Sys2Proof/Laws/State.lean ====
section
/-! SUPPORT. The small lemmas of the state: per-channel registers, and what each shared update leaves in every field. -/

namespace Sys2Proof.Machine

section PerChannel
variable {α : Type}

@[simp] theorem PerSeq.get_set (r : PerSeq α) (c d : SeqChan) (v : α) :
    (r.set c v).get d = if d = c then v else r.get d := by
  cases c <;> cases d <;> rfl

@[simp] theorem PerMsg.get_set (r : PerMsg α) (c d : MsgChan) (v : α) :
    (r.set c v).get d = if d = c then v else r.get d := by
  cases c <;> cases d <;> rfl

@[simp] theorem PerChan.get_set (r : PerChan α) (c d : Chan) (v : α) :
    (r.set c v).get d = if d = c then v else r.get d := by
  cases c <;> cases d <;> rfl

theorem PerSeq.set_leds (r : PerSeq α) (v : α) : r.set .leds v = { r with leds := v } := rfl
theorem PerSeq.set_ledd (r : PerSeq α) (v : α) : r.set .ledd v = { r with ledd := v } := rfl
theorem PerSeq.set_param (r : PerSeq α) (v : α) : r.set .param v = { r with param := v } := rfl

theorem PerMsg.set_ledd (r : PerMsg α) (v : α) : r.set .ledd v = { r with ledd := v } := rfl
theorem PerMsg.set_param (r : PerMsg α) (v : α) : r.set .param v = { r with param := v } := rfl
theorem PerMsg.set_btn (r : PerMsg α) (v : α) : r.set .btn v = { r with btn := v } := rfl

theorem PerChan.set_leds (r : PerChan α) (v : α) : r.set .leds v = { r with leds := v } := rfl
theorem PerChan.set_ledd (r : PerChan α) (v : α) : r.set .ledd v = { r with ledd := v } := rfl
theorem PerChan.set_param (r : PerChan α) (v : α) : r.set .param v = { r with param := v } := rfl
theorem PerChan.set_btn (r : PerChan α) (v : α) : r.set .btn v = { r with btn := v } := rfl

end PerChannel

@[simp] theorem SeqChan.toChan_inj (c d : SeqChan) : c.toChan = d.toChan ↔ c = d := by
  cases c <;> cases d <;> decide

@[simp] theorem MsgChan.toChan_inj (c d : MsgChan) : c.toChan = d.toChan ↔ c = d := by
  cases c <;> cases d <;> decide

/-! ## `State.complete`, `State.raise`, `State.request` -/

@[simp] theorem State.complete_block (s : State) (b : Block) (r : Result) : (s.complete b r).block = b := rfl
@[simp] theorem State.complete_cfg (s : State) (b : Block) (r : Result) : (s.complete b r).cfg = s.cfg := rfl
@[simp] theorem State.complete_pending (s : State) (b : Block) (r : Result) :
    (s.complete b r).pending = s.pending := rfl
@[simp] theorem State.complete_results (s : State) (b : Block) (r : Result) :
    (s.complete b r).results = s.results ++ [r] := rfl

@[simp] theorem State.raise_block (s : State) (b : Block) (c : Condition) :
    (s.raise b c).block = record s.cfg b c := rfl
@[simp] theorem State.raise_cfg (s : State) (b : Block) (c : Condition) : (s.raise b c).cfg = s.cfg := rfl
@[simp] theorem State.raise_pending (s : State) (b : Block) (c : Condition) :
    (s.raise b c).pending = s.pending := rfl
@[simp] theorem State.raise_results (s : State) (b : Block) (c : Condition) :
    (s.raise b c).results = s.results ++ [returned c] := rfl

@[simp] theorem State.acceptTracked_block (s : State) (b : Block) (c : SeqChan) (ctr : Byte) (p : Payload) :
    (s.acceptTracked b c ctr p).block = (track s.cfg b c ctr).1 := rfl
@[simp] theorem State.acceptTracked_cfg (s : State) (b : Block) (c : SeqChan) (ctr : Byte) (p : Payload) :
    (s.acceptTracked b c ctr p).cfg = s.cfg := rfl
@[simp] theorem State.acceptTracked_pending (s : State) (b : Block) (c : SeqChan) (ctr : Byte) (p : Payload) :
    (s.acceptTracked b c ctr p).pending = s.pending := rfl
@[simp] theorem State.acceptTracked_results (s : State) (b : Block) (c : SeqChan) (ctr : Byte) (p : Payload) :
    (s.acceptTracked b c ctr p).results = s.results ++ [.rx (.frameAccepted p (track s.cfg b c ctr).2)] := rfl

@[simp] theorem State.request_block (s : State) (op : Operation) : (s.request op).block = s.block := rfl
@[simp] theorem State.request_cfg (s : State) (op : Operation) : (s.request op).cfg = s.cfg := rfl
@[simp] theorem State.request_results (s : State) (op : Operation) : (s.request op).results = s.results := rfl
@[simp] theorem State.request_pending (s : State) (op : Operation) : (s.request op).pending = op :: s.pending := rfl

/-! ## Queue primitives -/

@[simp] theorem Block.qPush_rxq (b : Block) (v : Byte) : (b.qPush v).rxq = b.rxq ++ [v] := rfl
@[simp] theorem Block.qPopN_fst (b : Block) (n : Nat) : (b.qPopN n).1 = b.rxq.take n := rfl
@[simp] theorem Block.qPopN_snd (b : Block) (n : Nat) : (b.qPopN n).2 = { b with rxq := b.rxq.drop n } := rfl
@[simp] theorem Block.qLen_eq (b : Block) : b.qLen = b.rxq.length := rfl

/-! ## One step -/

@[simp] theorem step_idle (s : State) (h : s.pending = []) : step s = .next s := by simp [step, h]

/-- A step with `op` requested next performs `op` on the state without that request. -/
@[simp] theorem step_request (s : State) (op : Operation) : step (s.request op) = perform op s := rfl

end Sys2Proof.Machine
end

