-- ==== Sys2Proof/Laws/Encoding.lean ====
section
/-! SUPPORT. The small lemmas of the encoding: field assembly, lengths, and the shape of encoded and packed packets. -/

namespace Sys2Proof

@[simp] theorem bytesAt_length (s : List Byte) (off n : Nat) :
    (bytesAt s off n).length = min n (s.length - off) := by simp [bytesAt]

@[simp] theorem store16_length (v : U16) : (store16 v).length = 2 := rfl
@[simp] theorem store32_length (w : U32) : (store32 w).length = 4 := rfl

theorem le16_toNat (b0 b1 : Byte) : (le16 b0 b1).toNat = b0.toNat + 256 * b1.toNat := by
  simp only [le16, BitVec.toNat_ofNat]; omega

theorem le32_toNat (b0 b1 b2 b3 : Byte) :
    (le32 b0 b1 b2 b3).toNat = b0.toNat + 2 ^ 8 * b1.toNat + 2 ^ 16 * b2.toNat + 2 ^ 24 * b3.toNat := by
  simp only [le32, BitVec.toNat_ofNat]; omega

@[simp] theorem lo8_le16 (b0 b1 : Byte) : lo8 (le16 b0 b1) = b0 := by
  apply BitVec.eq_of_toNat_eq
  simp only [lo8, le16_toNat, BitVec.toNat_ofNat]; omega

@[simp] theorem hi8_le16 (b0 b1 : Byte) : hi8 (le16 b0 b1) = b1 := by
  apply BitVec.eq_of_toNat_eq
  simp only [hi8, le16_toNat, BitVec.toNat_ofNat]; omega

@[simp] theorem le16_lo8_hi8 (v : U16) : le16 (lo8 v) (hi8 v) = v := by
  apply BitVec.eq_of_toNat_eq
  simp only [le16_toNat, lo8, hi8, BitVec.toNat_ofNat]; omega

@[simp] theorem le32_byteOf32 (w : U32) :
    le32 (byteOf32 w 0) (byteOf32 w 1) (byteOf32 w 2) (byteOf32 w 3) = w := by
  apply BitVec.eq_of_toNat_eq
  simp only [le32_toNat, byteOf32, BitVec.toNat_ofNat]; omega

theorem byteOf32_le32 (b0 b1 b2 b3 : Byte) :
    byteOf32 (le32 b0 b1 b2 b3) 0 = b0 ∧ byteOf32 (le32 b0 b1 b2 b3) 1 = b1 ∧
    byteOf32 (le32 b0 b1 b2 b3) 2 = b2 ∧ byteOf32 (le32 b0 b1 b2 b3) 3 = b3 := by
  refine ⟨?_, ?_, ?_, ?_⟩ <;>
    (apply BitVec.eq_of_toNat_eq; simp only [byteOf32, le32_toNat, BitVec.toNat_ofNat]; omega)

theorem store16_magicLed : store16 magicLed = [0x55#8, 0xAA#8] := by decide
theorem store16_magicParam : store16 magicParam = [0x55#8, 0xAA#8] := by decide
theorem store16_magicBtn : store16 magicBtn = [0xA5#8, 0x5A#8] := by decide

/-- A little-endian magic check is a check of the two wire bytes (R51). -/
theorem le16_eq_iff (b0 b1 : Byte) (v : U16) : le16 b0 b1 = v ↔ b0 = lo8 v ∧ b1 = hi8 v := by
  constructor
  · rintro rfl; simp
  · rintro ⟨rfl, rfl⟩; simp

namespace Machine

theorem encode_eq_of_crc (i : Instr) : encode i = encodeBody i ++ [crcField i] := rfl

@[simp] theorem encode_dropLast (i : Instr) : (encode i).dropLast = encodeBody i := by simp [encode]

/-- The CRC check of an encoded packet compares the CRC of its body with the CRC byte it carries. -/
theorem crcMatches_encode (i : Instr) : crcMatches (encode i) = (crc8 (encodeBody i) == crcField i) := by
  simp [crcMatches, encode]

theorem crcMatches_append (body : List Byte) (crc : Byte) : crcMatches (body ++ [crc]) = (crc8 body == crc) := by
  simp [crcMatches]

/-- A sealed packet passes its own check. -/
@[simp] theorem crcMatches_sealPacket (body : List Byte) : crcMatches (sealPacket body) = true := by
  simp [sealPacket, crcMatches_append]

theorem packLeds_eq_encode (pixels : List Byte) (ctr : Byte) :
    packLeds pixels ctr = encode (.leds pixels ctr (crc8 ([sync0, sync1] ++ pixels ++ [ctr]))) := rfl

theorem packLedd_eq_encode (pixels : List Byte) (ctr rsv : Byte) :
    packLedd pixels ctr rsv =
      encode (.ledd ctr rsv pixels (crc8 (store16 magicLed ++ [ctr, rsv] ++ pixels))) := rfl

theorem packBtn_eq_encode (a b c d : Byte) :
    packBtn a b c d = encode (.btn a b c d (crc8 (store16 magicBtn ++ [a, b, c, d]))) := rfl

theorem packParam_eq_encode (anim ctr : Byte) (p1 p2 p3 : U32) :
    packParam anim ctr p1 p2 p3 = encode (.param anim ctr p1 p2 p3
      (crc8 (store16 magicParam ++ [anim, ctr] ++ store32 p1 ++ store32 p2 ++ store32 p3))) := rfl

theorem packBoot_eq_encode (ssid password ip : List Byte) (ledPort buttonPort : U16) :
    packBoot ssid password ip ledPort buttonPort = encode (.boot ssid password ip ledPort buttonPort
      (crc8 ([bootSync0, bootSync1] ++ ssid ++ password ++ ip ++ store16 ledPort ++ store16 buttonPort))) := rfl

end Machine
end Sys2Proof
end

