-- ==== Sys2Proof/Laws/Ops.lean ====
section
/-! SUPPORT. For each shared operation, what it can do, said once. -/

namespace Sys2Proof.Machine

/-! ## Counters -/

theorem satInc_le_top (cfg : Config) (r n : Nat) : satInc cfg r n ≤ cfg.counterTop := Nat.min_le_right _ _

theorem le_satInc (cfg : Config) (r n : Nat) (h : r ≤ cfg.counterTop) : r ≤ satInc cfg r n := by
  simp only [satInc]; omega

/-- A counter has at least 8 bits, so its top value is not 0. -/
theorem counterTop_pos (cfg : Config) : 1 ≤ cfg.counterTop := by
  have h : 2 ^ 8 ≤ 2 ^ cfg.cntW := Nat.pow_le_pow_right (by decide) cfg.cntW_ge
  simp only [Config.counterTop]; omega

theorem satInc_one_pos (cfg : Config) (r : Nat) : 1 ≤ satInc cfg r 1 := by
  have := counterTop_pos cfg
  simp only [satInc]; omega

/-! ## Conditions -/

/-- Recording a condition touches neither the queue, the deframer, the tracker, the transmit counters nor the accumulation buffer. -/
theorem record_frame (cfg : Config) (b : Block) (c : Condition) :
    (record cfg b c).rxq = b.rxq ∧ (record cfg b c).fs = b.fs ∧ (record cfg b c).haveSync0 = b.haveSync0 ∧
    (record cfg b c).last = b.last ∧ (record cfg b c).haveLast = b.haveLast ∧
    (record cfg b c).accepted = b.accepted ∧ (record cfg b c).skipped = b.skipped ∧
    (record cfg b c).txCtr = b.txCtr ∧ (record cfg b c).bootBuf = b.bootBuf ∧
    (record cfg b c).bootFill = b.bootFill := by
  cases c <;> simp [record]

/-! ## The tracker -/

/-- `track` writes the four tracker registers of its channel and nothing else. -/
theorem track_frame (cfg : Config) (b : Block) (c : SeqChan) (r : Byte) :
    (track cfg b c r).1 =
      { b with
        last := b.last.set c r
        haveLast := b.haveLast.set c true
        accepted := b.accepted.set c.toChan (satInc cfg (b.accepted.get c.toChan) 1)
        skipped := (track cfg b c r).1.skipped } := rfl

theorem track_skipped_get (cfg : Config) (b : Block) (c d : SeqChan) (r : Byte) :
    (track cfg b c r).1.skipped.get d = b.skipped.get d ∨
      (d = c ∧ b.haveLast.get c = true ∧
        (track cfg b c r).1.skipped.get d = satInc cfg (b.skipped.get c) (track cfg b c r).2) := by
  simp only [track]
  by_cases hm : (b.haveLast.get c && r.toNat != nextCtr (b.last.get c).toNat c.modulus) = true
  · by_cases hd : d = c
    · refine .inr ⟨hd, (Bool.and_eq_true _ _ ▸ hm).1, ?_⟩
      simp [hm, hd]
    · simp [hm, hd]
  · simp [hm]

theorem modulus_le (c : SeqChan) : 60 ≤ c.modulus ∧ c.modulus ≤ 255 := by cases c <;> decide

theorem nextCtr_range (v : Nat) (c : SeqChan) : 1 ≤ nextCtr v c.modulus ∧ nextCtr v c.modulus ≤ c.modulus := by
  have hm := modulus_le c
  have := Nat.mod_lt v (show 0 < c.modulus by omega)
  simp only [nextCtr]; omega

/-! ## The search -/

/-- The search only removes bytes from the oldest end, and finding the pair clears the flag. -/
theorem search_spec (budget : Nat) (q : List Byte) (n : Nat) (h : Bool) :
    ∃ k, (search budget q n h).rxq = q.drop k ∧ k ≤ (budget - n) + 1 ∧ k ≤ q.length ∧
      ((search budget q n h).stop = .found → (search budget q n h).haveSync0 = false) ∧
      ((search budget q n h).stop = .syncNotFound → (search budget q n h).haveSync0 = false) ∧
      ((search budget q n h).stop = .empty → (search budget q n h).rxq = []) := by
  induction q generalizing n h with
  | nil => refine ⟨0, ?_⟩; simp only [search]; split <;> [simp; (split <;> simp)]
  | cons b q ih =>
    simp only [search]
    split
    · exact ⟨1, by simp⟩
    · split
      · exact ⟨0, by simp⟩
      · obtain ⟨k, h1, h2, h3, h4⟩ := ih (n + 1) (b == sync0)
        exact ⟨k + 1, by simpa using h1, by omega, by simpa using h3, h4⟩

/-- The searching phase writes `rxq`, `have_sync0` and `fs`, and nothing else. -/
theorem searchPhase_frame (cfg : Config) (b : Block) :
    (searchPhase cfg b).1 =
      { b with
        rxq := (searchPhase cfg b).1.rxq
        haveSync0 := (searchPhase cfg b).1.haveSync0
        fs := (searchPhase cfg b).1.fs } := by
  unfold searchPhase; split <;> rfl

/-- The searching phase removes at most the budget and the free `55`, all from the oldest end (R146, R286). -/
theorem searchPhase_removes (cfg : Config) (b : Block) :
    ∃ k, (searchPhase cfg b).1.rxq = b.rxq.drop k ∧ k ≤ cfg.searchBudget + 1 ∧ k ≤ b.rxq.length := by
  unfold searchPhase
  split
  · exact ⟨0, rfl, Nat.zero_le _, Nat.zero_le _⟩
  · obtain ⟨k, h, hk, hl, -⟩ := search_spec cfg.searchBudget b.rxq 0 b.haveSync0
    exact ⟨k, h, by omega, hl⟩

/-! ## The accumulation -/

theorem storeAt_length (buf bytes : List Byte) (fill : Nat) (h : fill + bytes.length ≤ buf.length) :
    (storeAt buf fill bytes).length = buf.length := by
  simp only [storeAt, List.length_append, List.length_take, List.length_drop]; omega

/-- Accumulation writes the queue, the buffer and the fill, and nothing else. -/
theorem accumulate_frame (b : Block) :
    accumulate b =
      { b with
        rxq := (accumulate b).rxq
        bootBuf := (accumulate b).bootBuf
        bootFill := (accumulate b).bootFill } := rfl

theorem accumulate_fill_le (b : Block) (h : b.bootFill ≤ bootLen) : (accumulate b).bootFill ≤ bootLen := by
  simp only [accumulate, Block.qPopN_snd]; omega

theorem accumulate_bootBuf_length (b : Block) (hf : b.bootFill ≤ bootLen) (hl : b.bootBuf.length = bootLen) :
    (accumulate b).bootBuf.length = bootLen := by
  simp only [accumulate, Block.qPopN_fst, Block.qLen_eq]
  rw [storeAt_length _ _ _ (by simp only [List.length_take]; omega), hl]

end Sys2Proof.Machine
end

