-- ==== Sys2Proof/Laws/PerInstr.lean ====
section
/-! SUPPORT. The per-instruction family: the encoding of a well-formed packet has its row's length (R80, R105). -/

namespace Sys2Proof.Laws.EncodedLength

/-- A well-formed packet encodes to exactly as many bytes as its row has. -/
def Statement (i : Instr) : Prop := i.wellFormed = true → (encode i).length = i.packet.length

theorem leds (pixels : List Byte) (frameCtr crc : Byte) : Statement (.leds pixels frameCtr crc) := by
  simp only [Statement, Instr.wellFormed, beq_iff_eq]
  intro h
  simp [encode, encodeBody, h, Instr.packet, PacketType.length, pixelBytes, ledsLen]

theorem ledd (frameCtr reserved : Byte) (pixels : List Byte) (crc : Byte) :
    Statement (.ledd frameCtr reserved pixels crc) := by
  simp only [Statement, Instr.wellFormed, beq_iff_eq]
  intro h
  simp [encode, encodeBody, h, Instr.packet, PacketType.length, pixelBytes, leddLen]

theorem param (animType frameCtr : Byte) (p1 p2 p3 : U32) (crc : Byte) :
    Statement (.param animType frameCtr p1 p2 p3 crc) := fun _ => rfl

theorem btn (a b c d crc : Byte) : Statement (.btn a b c d crc) := fun _ => rfl

theorem boot (ssid password peerIp : List Byte) (ledPort buttonPort : U16) (crc : Byte) :
    Statement (.boot ssid password peerIp ledPort buttonPort crc) := by
  simp only [Statement, Instr.wellFormed, Bool.and_eq_true, beq_iff_eq]
  rintro ⟨⟨h1, h2⟩, h3⟩
  simp [encode, encodeBody, h1, h2, h3, Instr.packet, PacketType.length, ssidBytes, passwordBytes, ipBytes, bootLen]

end Sys2Proof.Laws.EncodedLength
end

