-- ==== Sys2Proof/Laws/Step.lean ====
section
/-! SUPPORT. What one step can do, said once: which value it returns, which block it can leave for each operation. Invariants and frames
are derived from `step_inversion` and `Move`, instead of unfolding the step. -/

namespace Sys2Proof.Machine

/-- The block after the deframer took the 198 payload bytes: both exits of `Validate` return to SEARCHING (R145, R147). -/
def afterPayload (cfg : Config) (b : Block) : Block :=
  { (searchPhase cfg b).1 with rxq := (searchPhase cfg b).1.rxq.drop readLen, fs := .searching }

/-- The blocks an operation can leave when it is performed on block `b`. -/
inductive Move (cfg : Config) (b : Block) : Operation → Block → Prop
  | keep (op : Operation) : Move cfg b op b
  | reset : Move cfg b .reset Block.reset
  | encLeds (pixels : List Byte) : Move cfg b (.encLeds pixels) (takeCtr b .leds).2
  | encLedd (pixels : List Byte) : Move cfg b (.encLedd pixels) (takeCtr b .ledd).2
  | encParam (anim : Byte) (p1 p2 p3 : U32) : Move cfg b (.encParam anim p1 p2 p3) (takeCtr b .param).2
  | push (v : Byte) (h : b.qLen < cfg.rxqDepth) : Move cfg b (.rxPush v) (b.qPush v)
  | searchEmpty (h : (searchPhase cfg b).2 = .empty) : Move cfg b .recvLeds (searchPhase cfg b).1
  | searchFailed (h : (searchPhase cfg b).2 = .syncNotFound) :
      Move cfg b .recvLeds (record cfg (searchPhase cfg b).1 .syncNotFound)
  | incomplete (h : (searchPhase cfg b).2 = .found) (hq : (searchPhase cfg b).1.qLen < readLen) :
      Move cfg b .recvLeds (searchPhase cfg b).1
  | frameAccepted (h : (searchPhase cfg b).2 = .found) (hq : readLen ≤ (searchPhase cfg b).1.qLen) (ctr : Byte) :
      Move cfg b .recvLeds (track cfg (afterPayload cfg b) .leds ctr).1
  | frameCorrupt (h : (searchPhase cfg b).2 = .found) (hq : readLen ≤ (searchPhase cfg b).1.qLen) :
      Move cfg b .recvLeds (record cfg (afterPayload cfg b) (.frameCorrupt .leds))
  | messageInvalid (c : MsgChan) (msg : List Byte) (why : InvalidCause) :
      Move cfg b (c.decode msg) (record cfg b (.frameInvalid c why))
  | messageCorrupt (c : MsgChan) (msg : List Byte) :
      Move cfg b (c.decode msg) (record cfg b (.frameCorrupt c.toChan))
  | leddAccepted (msg : List Byte) (ctr : Byte) : Move cfg b (.decLedd msg) (track cfg b .ledd ctr).1
  | paramAccepted (msg : List Byte) (ctr : Byte) : Move cfg b (.decParam msg) (track cfg b .param ctr).1
  | btnAccepted (msg : List Byte) :
      Move cfg b (.decBtn msg) { b with accepted := b.accepted.set .btn (satInc cfg (b.accepted.get .btn) 1) }
  | bootPending (h : b.bootState = .wait) (hf : (accumulate b).bootFill < bootLen) :
      Move cfg b .bootPoll (accumulate b)
  | bootFailed (h : b.bootState = .wait) (hf : ¬ (accumulate b).bootFill < bootLen) (why : BootFailure)
      (hw : why = .invalidSync ∨ why = .invalidCrc) :
      Move cfg b .bootPoll { accumulate b with bootState := .failed why }
  | bootDone (h : b.bootState = .wait) (hf : ¬ (accumulate b).bootFill < bootLen) (i : Instr)
      (hi : PacketType.boot.decode (accumulate b).bootBuf = .instr i) (hc : crcMatches (encode i) = true) :
      Move cfg b .bootPoll { accumulate b with bootState := .done }
  | bootTimeout (h : b.bootState = .wait) : Move cfg b .bootTimeout { b with bootState := .failed .timeout }

/-- A packet of type `k` is what `k.decode` can answer. -/
theorem decode_eq_instr (k : PacketType) (bytes : List Byte) (i : Instr) (h : k.decode bytes = .instr i) :
    bytes.length = k.length ∧ k.startFits (byteAt bytes 0) (byteAt bytes 1) = true ∧ i = k.fieldsOf bytes := by
  simp only [PacketType.decode] at h
  split at h
  · cases h
  · split at h
    · cases h; exact ⟨by simp_all, by assumption, rfl⟩
    · cases h

/-- Performing a request always completes, with one result, and the same whatever the earlier results were. -/
theorem perform_completes (op : Operation) (s : State) :
    ∃ b r, Move s.cfg s.block op b ∧
      ∀ (pending : List Operation) (results : List Result),
        perform op { s with pending := pending, results := results } =
          .next { s with block := b, pending := pending, results := results ++ [r] } := by
  unfold perform
  by_cases he : op.expressible s.cfg = true
  swap
  · exact ⟨_, .refusedRequest .notExpressible, .keep op, fun _ _ => by simp [he, refuseRequest, State.complete]⟩
  simp only [he, if_true]
  cases op with
  | crc8 bytes => exact ⟨_, _, .keep _, fun _ _ => rfl⟩
  | encLeds pixels => exact ⟨_, .packet (packLeds pixels (takeCtr s.block .leds).1), .encLeds _, fun _ _ => rfl⟩
  | rxPush v =>
    by_cases h : s.block.qLen < s.cfg.rxqDepth
    · exact ⟨_, _, .push v h, fun _ _ => by simp only [performOperation, performRxPush, h, if_true]; rfl⟩
    · exact ⟨_, _, .keep _, fun _ _ => by simp only [performOperation, performRxPush, h, if_false]; rfl⟩
  | recvLeds =>
    rcases hs : (searchPhase s.cfg s.block).2 with _ | _ | _
    · by_cases hq : (searchPhase s.cfg s.block).1.qLen < readLen
      · exact ⟨_, _, .incomplete hs hq, fun _ _ => by
          simp only [performOperation, performRecvLeds, hs, hq, if_true]; rfl⟩
      · simp only [PacketType.fieldsOf, performOperation, performRecvLeds, hs, hq, if_false, exec, execLeds]
        by_cases hc : crcMatches (encode (PacketType.leds.fieldsOf
            (candidateFrame ((searchPhase s.cfg s.block).1.qPopN readLen).1))) = true
        · exact ⟨_, _, .frameAccepted hs (Nat.le_of_not_lt hq)
            (byteAt (candidateFrame ((searchPhase s.cfg s.block).1.qPopN readLen).1) 198), fun _ _ => by
            simp only [PacketType.fieldsOf] at hc
            simp only [hc, if_true, State.acceptTracked, State.complete]; rfl⟩
        · exact ⟨_, _, .frameCorrupt hs (Nat.le_of_not_lt hq), fun _ _ => by
            simp only [PacketType.fieldsOf] at hc
            simp only [hc]; rfl⟩
    · exact ⟨_, _, .searchEmpty hs, fun _ _ => by simp only [performOperation, performRecvLeds, hs]; rfl⟩
    · exact ⟨_, _, .searchFailed hs, fun _ _ => by simp only [performOperation, performRecvLeds, hs]; rfl⟩
  | encLedd pixels => exact ⟨_, .packet (packLedd pixels (takeCtr s.block .ledd).1 0), .encLedd _, fun _ _ => rfl⟩
  | encParam animType p1 p2 p3 => exact ⟨_, .packet (packParam animType (takeCtr s.block .param).1 p1 p2 p3), .encParam _ _ _ _, fun _ _ => rfl⟩
  | encBtn a b c d => exact ⟨_, _, .keep _, fun _ _ => rfl⟩
  | decLedd msg =>
    rcases hd : PacketType.ledd.decode msg with i | w
    · obtain ⟨-, -, rfl⟩ := decode_eq_instr _ _ _ hd
      by_cases hc : crcMatches (encode (PacketType.ledd.fieldsOf msg)) = true
      · exact ⟨_, _, .leddAccepted _ (byteAt msg 2), fun _ _ => by
          simp only [performOperation, performDecLedd, performDecode, MsgChan.packet, hd]
          simp only [PacketType.fieldsOf, exec, execLedd] at hc ⊢
          simp only [hc, if_true, State.acceptTracked, State.complete]; rfl⟩
      · exact ⟨_, _, .messageCorrupt .ledd msg, fun _ _ => by
          simp only [performOperation, performDecLedd, performDecode, MsgChan.packet, hd]
          simp only [PacketType.fieldsOf, exec, execLedd] at hc ⊢
          simp only [hc]; rfl⟩
    · cases w
      · exact ⟨_, _, .messageInvalid .ledd msg .length, fun _ _ => by
          simp only [performOperation, performDecLedd, performDecode, MsgChan.packet, hd]; rfl⟩
      · exact ⟨_, _, .messageInvalid .ledd msg .magic, fun _ _ => by
          simp only [performOperation, performDecLedd, performDecode, MsgChan.packet, hd]; rfl⟩
  | decParam msg =>
    rcases hd : PacketType.param.decode msg with i | w
    · obtain ⟨-, -, rfl⟩ := decode_eq_instr _ _ _ hd
      by_cases hc : crcMatches (encode (PacketType.param.fieldsOf msg)) = true
      · exact ⟨_, _, .paramAccepted _ (byteAt msg 3), fun _ _ => by
          simp only [performOperation, performDecParam, performDecode, MsgChan.packet, hd]
          simp only [PacketType.fieldsOf, exec, execParam] at hc ⊢
          simp only [hc, if_true, State.acceptTracked, State.complete]; rfl⟩
      · exact ⟨_, _, .messageCorrupt .param msg, fun _ _ => by
          simp only [performOperation, performDecParam, performDecode, MsgChan.packet, hd]
          simp only [PacketType.fieldsOf, exec, execParam] at hc ⊢
          simp only [hc]; rfl⟩
    · cases w
      · exact ⟨_, _, .messageInvalid .param msg .length, fun _ _ => by
          simp only [performOperation, performDecParam, performDecode, MsgChan.packet, hd]; rfl⟩
      · exact ⟨_, _, .messageInvalid .param msg .magic, fun _ _ => by
          simp only [performOperation, performDecParam, performDecode, MsgChan.packet, hd]; rfl⟩
  | decBtn msg =>
    rcases hd : PacketType.btn.decode msg with i | w
    · obtain ⟨-, -, rfl⟩ := decode_eq_instr _ _ _ hd
      by_cases hc : crcMatches (encode (PacketType.btn.fieldsOf msg)) = true
      · exact ⟨_, _, .btnAccepted _, fun _ _ => by
          simp only [performOperation, performDecBtn, performDecode, MsgChan.packet, hd]
          simp only [PacketType.fieldsOf, exec, execBtn] at hc ⊢
          simp only [hc, if_true, State.complete]; rfl⟩
      · exact ⟨_, _, .messageCorrupt .btn msg, fun _ _ => by
          simp only [performOperation, performDecBtn, performDecode, MsgChan.packet, hd]
          simp only [PacketType.fieldsOf, exec, execBtn] at hc ⊢
          simp only [hc]; rfl⟩
    · cases w
      · exact ⟨_, _, .messageInvalid .btn msg .length, fun _ _ => by
          simp only [performOperation, performDecBtn, performDecode, MsgChan.packet, hd]; rfl⟩
      · exact ⟨_, _, .messageInvalid .btn msg .magic, fun _ _ => by
          simp only [performOperation, performDecBtn, performDecode, MsgChan.packet, hd]; rfl⟩
  | encBoot ssid password peerIp ledPort buttonPort => exact ⟨_, _, .keep _, fun _ _ => rfl⟩
  | bootPoll =>
    rcases hb : s.block.bootState with _ | _ | why
    · by_cases hf : (accumulate s.block).bootFill < bootLen
      · exact ⟨_, _, .bootPending hb hf, fun _ _ => by
          simp only [performOperation, performBootPoll, hb, hf, if_true]; rfl⟩
      · rcases hd : PacketType.boot.decode (accumulate s.block).bootBuf with i | w
        · have hi := (decode_eq_instr _ _ _ hd).2.2
          by_cases hc : crcMatches (encode i) = true
          · refine ⟨_, .boot (.done (bootFields (accumulate s.block).bootBuf)), .bootDone hb hf i hd hc, fun _ _ => ?_⟩
            subst hi
            simp only [performOperation, performBootPoll, hb, hf, if_false, hd]
            simp only [PacketType.fieldsOf, exec, execBoot] at hc ⊢
            simp only [hc, if_true]; rfl
          · refine ⟨_, .boot (.failed .invalidCrc), .bootFailed hb hf .invalidCrc (.inr rfl), fun _ _ => ?_⟩
            subst hi
            simp only [performOperation, performBootPoll, hb, hf, if_false, hd]
            simp only [PacketType.fieldsOf, exec, execBoot] at hc ⊢
            simp only [hc]; rfl
        · exact ⟨_, _, .bootFailed hb hf .invalidSync (.inl rfl), fun _ _ => by
            simp only [performOperation, performBootPoll, hb, hf, if_false, hd]; rfl⟩
    · exact ⟨_, _, .keep _, fun _ _ => by simp only [performOperation, performBootPoll, hb]; rfl⟩
    · exact ⟨_, _, .keep _, fun _ _ => by simp only [performOperation, performBootPoll, hb]; rfl⟩
  | bootTimeout =>
    rcases hb : s.block.bootState with _ | _ | why
    · exact ⟨_, _, .bootTimeout hb, fun _ _ => by simp only [performOperation, performBootTimeout, hb]; rfl⟩
    · exact ⟨_, _, .keep _, fun _ _ => by simp only [performOperation, performBootTimeout, hb]; rfl⟩
    · exact ⟨_, _, .keep _, fun _ _ => by simp only [performOperation, performBootTimeout, hb]; rfl⟩
  | statRead name => exact ⟨_, .stat (s.block.readItem name), .keep _, fun _ _ => rfl⟩
  | reset => exact ⟨_, _, .reset, fun _ _ => rfl⟩

/-- What one step can do. -/
theorem step_inversion (s t : State) (h : step s = .next t) :
    (s.pending = [] ∧ t = s) ∨
    ∃ op rest b r, s.pending = op :: rest ∧ Move s.cfg s.block op b ∧
      t = { s with block := b, pending := rest, results := s.results ++ [r] } := by
  unfold step at h
  split at h
  · cases h; exact .inl ⟨by assumption, rfl⟩
  · rename_i op rest hp
    obtain ⟨b, r, hm, hr⟩ := perform_completes op s
    have := hr rest s.results
    rw [this] at h
    cases h
    exact .inr ⟨op, rest, b, r, hp, hm, rfl⟩

end Sys2Proof.Machine
end

