-- ==== Sys2Proof/Tests/Slice0.lean ====
section
/-! SUPPORT. The model's own tests: ill-formed terms that the checks refuse, packets written out from the spec's layouts, vectors of
`95_test_vectors.md`, and for every obligation with hypotheses a concrete case that meets them (a witness). -/

namespace Sys2Proof.Tests

-- One theorem at a time: each kernel evaluation below would otherwise hold a thread of its own.
set_option Elab.async false

open Sys2Proof Sys2Proof.Machine

/-! ## Helpers -/

/-- `Z`, the all-zero pixel array (R111). -/
def z : List Byte := List.replicate 196 0

/-- `n` bytes of noise `11` (`95_test_vectors.md` 2.2). -/
def noise (n : Nat) : List Byte := List.replicate n 0x11

/-- The smallest legal parameters, so that the boundaries are near. -/
def small : Config := { searchBudget := 1, rxqDepth := 198, cntW := 8, msgMax := 202 }

/-- The reset state with parameters `cfg` and block `b`. -/
def start (cfg : Config) (b : Block) : State := { State.reset with cfg := cfg, block := b }

/-- The reset state with `q` queued. -/
def queued (q : List Byte) : State := start .default { Block.reset with rxq := q }

/-- What the operation `op` answers in `s`. -/
def answers (s : State) (op : Operation) : Option (List Result) :=
  match step (s.request op) with
  | .next t => some t.results
  | .fault _ => none
  | .refused _ => none

/-- The block that the operation `op` leaves in `s`. -/
def leaves (s : State) (op : Operation) : Option Block :=
  match step (s.request op) with
  | .next t => some t.block
  | .fault _ => none
  | .refused _ => none

/-- The Link Bootstrap packet `B` of R221's example: ssid "synth", password "hunter22", 192.168.4.1, ports 8888 and 8889. -/
def bootSsid : List Byte := [0x73, 0x79, 0x6E, 0x74, 0x68] ++ List.replicate 27 0
def bootPassword : List Byte := [0x68, 0x75, 0x6E, 0x74, 0x65, 0x72, 0x32, 0x32] ++ List.replicate 56 0
def bootIp : List Byte := [0xC0, 0xA8, 0x04, 0x01]
def bootPacket : List Byte :=
  [0xCC, 0xDD] ++ bootSsid ++ bootPassword ++ bootIp ++ [0xB8, 0x22, 0xB9, 0x22, 0x6B]

/-- The Parameter Update `P1` (`95_test_vectors.md` 2.3). -/
def p1Packet : List Byte :=
  [0x55, 0xAA, 0x01, 0x01, 0x00, 0x00, 0x00, 0x00, 0x00, 0x00, 0x80, 0x3F, 0x00, 0x00, 0x80, 0x3F, 0x47]

/-- `BTN(1, 0, 0, 1)` (V42-14). -/
def btnPacket : List Byte := [0xA5, 0x5A, 0x01, 0x00, 0x00, 0x01, 0x6C]

/-- `LEDS(Z, 1)` (V40-14) and `LEDD(Z, 1)` (V42-1). -/
def ledsPacket : List Byte := [0xAA, 0x55] ++ z ++ [0x01, 0x2C]
def leddPacket : List Byte := [0x55, 0xAA, 0x01, 0x00] ++ z ++ [0x61]

/-! ## Well-formedness refuses ill-formed terms (R84, R85, R88, R55, U8) -/

theorem test_wf_led_pixels :
    Instr.wellFormed (.leds (List.replicate 195 0) 1 0) = false ∧
    Instr.wellFormed (.ledd 1 0 (List.replicate 197 0) 0) = false := by decide +kernel
theorem test_wf_boot_ssid : Instr.wellFormed (.boot (List.replicate 31 0) bootPassword bootIp 0 0 0) = false := by decide
theorem test_wf_boot_password : Instr.wellFormed (.boot bootSsid (List.replicate 65 0) bootIp 0 0 0) = false := by decide
theorem test_wf_boot_ip : Instr.wellFormed (.boot bootSsid bootPassword [1, 2, 3] 0 0 0) = false := by decide
theorem test_expressible_lengths :
    Operation.expressible small (.crc8 (noise 203)) = false ∧ Operation.expressible small (.crc8 (noise 202)) = true ∧
    Operation.expressible small (.decLedd (noise 203)) = false ∧ Operation.expressible small (.decParam (noise 203)) = false ∧
    Operation.expressible small (.decBtn (noise 203)) = false := by decide +kernel
theorem test_expressible_arrays :
    Operation.expressible small (.encLeds (noise 195)) = false ∧ Operation.expressible small (.encLedd (noise 197)) = false ∧
    Operation.expressible small (.encBoot (noise 33) bootPassword bootIp 0 0) = false ∧
    Operation.expressible small (.encBoot bootSsid (noise 63) bootIp 0 0) = false ∧
    Operation.expressible small (.encBoot bootSsid bootPassword (noise 5) 0 0) = false := by decide +kernel
theorem test_sender_counter :
    SeqChan.senderCtr .leds 0 = false ∧ SeqChan.senderCtr .leds 61 = false ∧ SeqChan.senderCtr .param 255 = true := by decide

/-! ## Decoding of packets written out from R84 to R88 -/

theorem test_decode_leds : PacketType.leds.decode ledsPacket = .instr (.leds z 0x01 0x2C) := by decide +kernel
theorem test_decode_ledd : PacketType.ledd.decode leddPacket = .instr (.ledd 0x01 0x00 z 0x61) := by decide +kernel
theorem test_decode_param :
    PacketType.param.decode p1Packet = .instr (.param 1 1 0x00000000 0x3F800000 0x3F800000 0x47) := by decide
theorem test_decode_btn : PacketType.btn.decode btnPacket = .instr (.btn 1 0 0 1 0x6C) := by decide
theorem test_decode_boot :
    PacketType.boot.decode bootPacket = .instr (.boot bootSsid bootPassword bootIp 8888 8889 0x6B) := by decide
/-- R105, C7: the two byte orders of the LED start are different rows. -/
theorem test_decode_swapped :
    PacketType.leds.decode ([0x55, 0xAA] ++ z ++ [0x01, 0x2C]) = .rejected .wrongStart ∧
    PacketType.param.decode (p1Packet.take 16) = .rejected .wrongLength := by decide +kernel
/-- The opcode table's numbering (R106): `CCDD`, `AA55`, `A55A`, and a whole BTN packet. -/
theorem test_table_words :
    decodeTableWord 16 0xAA55 = some (.leds z 0 0) ∧
    decodeTableWord 16 0xA55A = some (.btn 0 0 0 0 0) ∧
    decodeTableWord 56 0x6C00010100A55A = some (.btn 1 0 0 1 0x6C) ∧
    decodeTableWord 16 0x1234 = none := by decide +kernel
theorem test_table_words_boot_ledd :
    decodeTableWord 16 0xCCDD = some (.boot (List.replicate 32 0) (List.replicate 64 0) [0, 0, 0, 0] 0 0 0) ∧
    decodeTableWord 16 0x55AA = some (.ledd 0 0 z 0) := by decide +kernel
theorem test_table_word_param : decodeTableWord 136 0x55AA = some (.param 0 0 0 0 0 0) := by decide

/-! ## Vectors of `95_test_vectors.md` -/

/-- V40-11. -/
theorem test_crc_check_value : crc8 [0x31, 0x32, 0x33, 0x34, 0x35, 0x36, 0x37, 0x38, 0x39] = 0xF4 := by decide
/-- V40-5, V40-9. -/
theorem test_crc_small : crc8 [0x80] = 0x89 ∧ crc8 [0x01, 0x00] = 0x15 ∧ crc8 [0x00, 0x01] = 0x07 := by decide
/-- V45-4. -/
theorem test_crc8_operation :
    answers State.reset (.crc8 [0x31, 0x32, 0x33, 0x34, 0x35, 0x36, 0x37, 0x38, 0x39]) = some [.crc 0xF4] := by decide
/-- 2.2: `ENC_LEDS(Z)` from reset, and with the counter at 60. -/
theorem test_encLeds : answers State.reset (.encLeds z) = some [.packet ledsPacket] := by decide +kernel
theorem test_encLeds_wraps :
    (leaves (start .default { Block.reset with txCtr := ⟨60, 7, 7⟩ }) (.encLeds z)).map (·.txCtr) = some ⟨1, 7, 7⟩ := by
  decide +kernel
/-- 2.3: the encoders from reset. -/
theorem test_encLedd : answers State.reset (.encLedd z) = some [.packet leddPacket] := by decide +kernel
theorem test_encParam : answers State.reset (.encParam 1 0 0x3F800000 0x3F800000) = some [.packet p1Packet] := by decide +kernel
theorem test_encBtn :
    answers State.reset (.encBtn false true false false) = some [.packet [0xA5, 0x5A, 0, 1, 0, 0, 0x16]] := by decide
/-- V44-1. -/
theorem test_encBoot :
    answers State.reset (.encBoot bootSsid bootPassword bootIp 8888 8889) = some [.packet bootPacket] := by decide +kernel
/-- V45-5: the 199th push into a queue of 198. -/
theorem test_rxPush_full :
    answers (start small { Block.reset with rxq := noise 198 }) (.rxPush 0x22) = some [.refusedRequest .queueFull] := by
  decide +kernel
/-- V41-1 (S8). -/
theorem test_recvLeds_accepts :
    answers (queued (0x00 :: ledsPacket)) .recvLeds = some [.rx (.frameAccepted (.leds z 1) 0)] := by decide +kernel
/-- V41-9: a false pair swallows the frame; `01 2C` is left. -/
theorem test_recvLeds_false_pair :
    (leaves (queued ([0xAA, 0x55] ++ ledsPacket)) .recvLeds).map (fun b => (b.rxq, b.corrupted.leds, b.accepted.leds)) =
      some ([0x01, 0x2C], 1, 0) := by decide +kernel
/-- V41-8: a frame with a flipped sync bit is lost silently, no counter moves. -/
theorem test_recvLeds_flipped_sync :
    leaves (queued (flipBit ledsPacket 8)) .recvLeds = some Block.reset := by decide +kernel
/-- The start of P1: noise `00 AA 00 55 AA AA`. -/
theorem test_search_noise :
    search 400 [0x00, 0xAA, 0x00, 0x55, 0xAA, 0xAA] 0 false = ⟨.empty, [], true⟩ := by decide
/-- V41-7: the budget ends on 400 bytes of noise. -/
theorem test_search_budget : search 400 (noise 400 ++ [0xAA, 0x55]) 0 false = ⟨.syncNotFound, [0xAA, 0x55], false⟩ := by
  decide +kernel
/-- V42-1, V42-5's kind: `DEC_LEDD`. -/
theorem test_decLedd : answers State.reset (.decLedd leddPacket) = some [.rx (.frameAccepted (.ledd z 1) 0)] := by
  decide +kernel
/-- V42-10, V42-8. -/
theorem test_decParam_corrupt :
    answers State.reset (.decParam (p1Packet.dropLast ++ [0x46])) = some [.rx (.frameRejected .frameCorrupt)] := by
  decide +kernel
theorem test_decParam :
    answers State.reset (.decParam p1Packet) =
      some [.rx (.frameAccepted (.param 1 1 0 0x3F800000 0x3F800000) 0)] := by decide +kernel
/-- V42-18, V42-17. -/
theorem test_decBtn :
    answers State.reset (.decBtn [0xA5, 0x5A, 2, 0, 0, 0xFF, 0xA2]) = some [.rx (.frameAccepted (.btn 2 0 0 255) 0)] := by
  decide
theorem test_decBtn_length :
    answers State.reset (.decBtn []) = some [.rx (.frameRejected (.frameInvalid .length))] := by decide
/-- S4, S5: the document's two tracker examples. -/
theorem test_track_examples :
    (track .default { Block.reset with last := ⟨58, 0, 0⟩, haveLast := ⟨true, false, false⟩ } .leds 2).2 = 3 ∧
    (track .default { Block.reset with last := ⟨0, 0, 250⟩, haveLast := ⟨false, false, true⟩ } .param 2).2 = 6 := by decide
/-- V45-6: `skipped` saturates at 255 with `CNT_W` = 8. -/
theorem test_track_saturates :
    (track small { Block.reset with last := ⟨60, 0, 0⟩, haveLast := ⟨true, false, false⟩, skipped := ⟨250, 0, 0⟩ }
      .leds 60).1.skipped.leds = 255 := by decide
/-- V44-2. -/
theorem test_bootPoll_done :
    answers (queued bootPacket) .bootPoll =
      some [.boot (.done ⟨bootSsid, bootPassword, bootIp, 8888, 8889⟩)] := by decide +kernel
/-- V44-4: one stray byte is fatal, `6B` is left. -/
theorem test_bootPoll_stray :
    (leaves (queued (0x00 :: bootPacket)) .bootPoll).map (fun b => (b.bootState, b.rxq)) =
      some (.failed .invalidSync, [0x6B]) := by decide +kernel
/-- V44-10. -/
theorem test_bootTimeout :
    answers State.reset .bootTimeout = some [.boot (.failed .timeout)] := by decide
/-- V45-1. -/
theorem test_statRead : answers State.reset (.statRead (.txCtr .leds)) = some [.stat (.byte 1)] := by decide
/-- V45-2's `RESET`. -/
theorem test_reset :
    leaves (start .default { Block.reset with corrupted := ⟨1, 2, 3, 4⟩, haveSync0 := true }) .reset = some Block.reset := by
  decide

/-! ## Witnesses: for each obligation with hypotheses, a case that meets them -/

theorem witness_DecodeEncodeAgree :
    Instr.wellFormed (.leds z 255 0xD8) = true ∧ Instr.wellFormed (.boot bootSsid bootPassword bootIp 65535 1 0) = true := by decide +kernel

theorem witness_EncodeDecodeAgree : PacketType.btn.decode btnPacket = .instr (.btn 1 0 0 1 0x6C) := by decide

theorem witness_FetchWordRunsNext :
    State.reset.block.bootBuf.length = bootLen ∧ decodeTableWord 16 0xAA55 = some (.leds z 0 0) ∧
    decodeTableWord 16 0xCCDD = some (.boot (List.replicate 32 0) (List.replicate 64 0) [0, 0, 0, 0] 0 0 0) ∧
    decodeTableWord 16 0xA55A = some (.btn 0 0 0 0 0) := by decide +kernel

/-- For `CrcIsLinear`, with 2.1's example, and a corrupted packet. -/
theorem witness_CrcIsLinear :
    ([0x12, 0x34, 0x56] : List Byte).length = ([0xAB, 0xCD, 0xEF] : List Byte).length ∧
    btnPacket ≠ [] ∧ btnPacket.length = (noise 7).length ∧ crcMatches btnPacket = true := by decide

/-- For `CrcDetectsEverySingleBit`: the first and the last bit. -/
theorem witness_CrcDetectsEverySingleBit :
    crcMatches btnPacket = true ∧ 0 < 8 * btnPacket.length ∧ 55 < 8 * btnPacket.length := by decide

/-- A burst across two bytes: bits 4 and 11, the ends of an 8-bit window. -/
def burst : List Byte := [0x08, 0x10, 0, 0, 0, 0, 0]

theorem witness_CrcDetectsShortBursts :
    crcMatches btnPacket = true ∧ btnPacket.length = burst.length ∧ setBits burst ≠ 0 ∧
    ∀ q, wireBit burst q = true → 4 ≤ q ∧ q < 4 + 8 := by
  refine ⟨by decide, by decide, by decide, fun q h => ?_⟩
  by_cases hq : q < 56
  · revert h; revert q; decide
  · have : burst.length ≤ q / 8 := by simp only [burst, List.length_cons, List.length_nil]; omega
    rw [wireBit, byteAt, List.getD_eq_default _ _ this] at h
    simp at h

theorem witness_CrcDetectsOddErrors :
    crcMatches btnPacket = true ∧ btnPacket.length = ([0x80, 0, 0, 0x01, 0, 0, 0x10] : List Byte).length ∧
    setBits [0x80, 0, 0, 0x01, 0, 0, 0x10] % 2 = 1 := by decide

/-- For `CrcMissesPairs127Apart`: the last two bits of `P1` that are 127 apart. -/
theorem witness_CrcMissesPairs127Apart : crcMatches p1Packet = true ∧ 8 + 127 < 8 * p1Packet.length := by decide +kernel

theorem witness_Crc8OperationIsPure : (noise 202).length ≤ (start small Block.reset).cfg.msgMax := by decide +kernel

theorem witness_EncLedsResult_EncLeddResult : z.length = 196 := by decide +kernel

theorem witness_EncBootResult : bootSsid.length = 32 ∧ bootPassword.length = 64 ∧ bootIp.length = 4 := by decide

/-- For `RxPushQueuesOrRefuses`: the last free place, and no place. -/
theorem witness_RxPushQueuesOrRefuses :
    (start small { Block.reset with rxq := noise 197 }).block.rxq.length < small.rxqDepth ∧
    ¬ (start small { Block.reset with rxq := noise 198 }).block.rxq.length < small.rxqDepth := by decide +kernel

/-- For `QueueIsFifo`, `ResultsAreNeverRead` and (with a state before it) `RecvLedsWorkIsBounded`: a step that answers a next state. -/
theorem witness_QueueIsFifo_ResultsAreNeverRead :
    step (State.reset.request (.rxPush 0xAA)) =
      .next { State.reset with block := { Block.reset with rxq := [0xAA] }, results := [.nothing] } ∧
    (State.reset.request (.rxPush 0xAA)).pending.head? ≠ some .reset := ⟨rfl, by decide⟩

theorem witness_SearchIsTheSpecLoop : 2 * (noise 3).length + 2 ≤ 8 := by decide

/-- For `ReadingWaitsForTheWholePayload`: 197 bytes of payload. -/
theorem witness_ReadingWaitsForTheWholePayload :
    (let s := start small { Block.reset with rxq := noise 197, fs := .reading }
     s.block.fs = .reading ∧ s.block.rxq.length < 198) ∧
    (let s := queued ([0xAA] ++ [0xAA, 0x55] ++ noise 197)
     s.block.fs = .searching ∧ s.block.haveSync0 = false ∧ s.block.rxq = [0xAA] ++ [0xAA, 0x55] ++ noise 197 ∧
     NoSyncPair [0xAA] ∧ ([0xAA] : List Byte).length < s.cfg.searchBudget ∧ (noise 197).length < 198) := by
  refine ⟨by decide +kernel, rfl, rfl, rfl, ?_, by decide, by decide +kernel⟩
  intro i h; simp at h

/-- For `SearchRunsDry`: below the budget, and at the budget with a last `AA`. -/
theorem witness_SearchRunsDry :
    (let s := queued []
     s.block.fs = .searching ∧ s.block.haveSync0 = false ∧ NoSyncPair s.block.rxq ∧
     s.block.rxq.length < s.cfg.searchBudget) ∧
    (let s := start small { Block.reset with rxq := [0xAA] }
     s.block.fs = .searching ∧ s.block.haveSync0 = false ∧ NoSyncPair s.block.rxq ∧
     s.block.rxq.length = s.cfg.searchBudget ∧ s.block.rxq.getLast? = some 0xAA#8) := by
  refine ⟨⟨rfl, rfl, ?_, by decide⟩, rfl, rfl, ?_, rfl, rfl⟩ <;> intro i h <;>
    simp [queued, start, Block.reset] at h

/-- For `SearchExhaustsItsBudget`: the budget is the whole queue, and less than it with a last searched `AA`. -/
theorem witness_SearchExhaustsItsBudget :
    (let s := start small { Block.reset with rxq := [0x11] }
     s.block.fs = .searching ∧ s.block.haveSync0 = false ∧ s.cfg.searchBudget ≤ s.block.rxq.length ∧
     NoSyncPair (s.block.rxq.take (s.cfg.searchBudget + 1)) ∧
     ¬ (s.block.rxq.length = s.cfg.searchBudget ∧ s.block.rxq.getLast? = some 0xAA#8)) ∧
    (let s := start small { Block.reset with rxq := [0xAA, 0xAA] }
     s.block.fs = .searching ∧ s.block.haveSync0 = false ∧ s.cfg.searchBudget ≤ s.block.rxq.length ∧
     NoSyncPair (s.block.rxq.take (s.cfg.searchBudget + 1)) ∧
     ¬ (s.block.rxq.length = s.cfg.searchBudget ∧ s.block.rxq.getLast? = some 0xAA#8)) := by
  refine ⟨⟨rfl, rfl, by decide, ?_, by decide⟩, rfl, rfl, by decide, ?_, by decide⟩ <;> intro i h
  · simp [start, small, Block.reset] at h
  · obtain rfl : i = 0 := by simp [start, small, Block.reset] at h; omega
    decide

/-- For `CarriedSyncByte`: a completed pair with 197 bytes after it, an empty queue, the pair with exactly the 198 bytes, and another
`AA`. -/
theorem witness_CarriedSyncByte :
    (let s := start small { Block.reset with haveSync0 := true, rxq := 0x55 :: noise 197 }
     s.block.fs = .searching ∧ s.block.haveSync0 = true ∧ s.block.rxq = 0x55 :: noise 197 ∧ (noise 197).length < 198) ∧
    (let s := start small { Block.reset with haveSync0 := true }
     s.block.fs = .searching ∧ s.block.haveSync0 = true ∧ s.block.rxq = []) ∧
    (let s := start small { Block.reset with haveSync0 := true, rxq := 0x55 :: (z ++ [0x01, 0x2C]) ++ [] }
     s.block.fs = .searching ∧ s.block.haveSync0 = true ∧ s.block.rxq = 0x55 :: (z ++ [0x01, 0x2C]) ++ [] ∧
     PacketType.leds.decode (0xAA#8 :: 0x55#8 :: (z ++ [0x01, 0x2C])) = .instr (.leds z 0x01 0x2C)) ∧
    (let s := start small { Block.reset with haveSync0 := true, rxq := [0xAA] }
     s.block.fs = .searching ∧ s.block.haveSync0 = true ∧ s.block.rxq = [0xAA] ∧ (0xAA#8 : Byte) ≠ 0x55#8) := by decide +kernel

theorem witness_RecvLedsWorkIsBounded :
    step (State.reset.request .recvLeds) = .next { State.reset with results := [.rx (.noData .empty)] } := rfl

/-- For `StepRunsSerialFrame`: the noise ends in an `AA`; and a payload alone in READING. -/
theorem witness_StepRunsSerialFrame :
    (let s := queued ([0xAA] ++ ledsPacket ++ [0x55])
     s.block.fs = .searching ∧ s.block.haveSync0 = false ∧ s.block.rxq = [0xAA] ++ ledsPacket ++ [0x55] ∧
     NoSyncPair [0xAA] ∧ ([0xAA] : List Byte).length < s.cfg.searchBudget ∧
     PacketType.leds.decode ledsPacket = .instr (.leds z 0x01 0x2C)) ∧
    (let s := start small { Block.reset with fs := .reading, rxq := z ++ [0x01, 0x2C] ++ [] }
     s.block.fs = .reading ∧ s.block.rxq = z ++ [0x01, 0x2C] ++ [] ∧
     PacketType.leds.decode (0xAA#8 :: 0x55#8 :: (z ++ [0x01, 0x2C])) = .instr (.leds z 0x01 0x2C)) := by
  refine ⟨⟨rfl, rfl, rfl, ?_, by decide, by decide +kernel⟩, rfl, rfl, by decide +kernel⟩
  intro i h; simp at h

/-- For the two clauses of `LedsFrameValidated`, `LeddMessageValidated`, `ParamMessageValidated`, `BtnMessageValidated` and
`BootPacketValidated`: the right CRC byte, and a wrong one. -/
theorem witness_LedsFrameValidated :
    crc8 ([0xAA#8, 0x55#8] ++ z ++ [0x01]) = 0x2C ∧ crc8 ([0xAA#8, 0x55#8] ++ z ++ [0x01]) ≠ 0x2D := by decide +kernel
theorem witness_LeddMessageValidated :
    crc8 ([0x55#8, 0xAA#8, 0x01, 0x00] ++ z) = 0x61 ∧ crc8 ([0x55#8, 0xAA#8, 0x01, 0x00] ++ z) ≠ 0x60 := by decide +kernel
theorem witness_ParamMessageValidated :
    crc8 ([0x55#8, 0xAA#8, 1, 1] ++ store32 0 ++ store32 0x3F800000 ++ store32 0x3F800000) = 0x47 ∧
    crc8 ([0x55#8, 0xAA#8, 1, 1] ++ store32 0 ++ store32 0x3F800000 ++ store32 0x3F800000) ≠ 0x46 := by decide +kernel
theorem witness_BtnMessageValidated :
    crc8 [0xA5#8, 0x5A#8, 1, 0, 0, 1] = 0x6C ∧ crc8 [0xA5#8, 0x5A#8, 1, 0, 0, 1] ≠ 0x6D := by decide
theorem witness_BootPacketValidated :
    crc8 ([0xCC#8, 0xDD#8] ++ bootSsid ++ bootPassword ++ bootIp ++ store16 8888 ++ store16 8889) = 0x6B ∧
    crc8 ([0xCC#8, 0xDD#8] ++ bootSsid ++ bootPassword ++ bootIp ++ store16 8888 ++ store16 8889) ≠ 0x6A := by decide +kernel

theorem witness_ResynchronisesAfterNoise :
    let s := start small { Block.reset with rxq := [0x11, 0xAA] ++ packLeds z 1 ++ [0x55] }
    s.block.fs = .searching ∧ s.block.haveSync0 = false ∧ z.length = 196 ∧ NoSyncPair [0x11, 0xAA] ∧
    s.block.rxq = [0x11, 0xAA] ++ packLeds z 1 ++ [0x55] ∧ s.block.syncFailures ≤ 2 ^ s.cfg.cntW - 1 ∧
    2 = ([0x11, 0xAA] : List Byte).length / s.cfg.searchBudget := by
  refine ⟨rfl, rfl, by decide +kernel, ?_, rfl, by decide, by decide⟩
  intro i h
  obtain rfl : i = 0 := by simp at h; omega
  decide

theorem witness_StepRunsMessage : (MsgChan.param).packet.decode p1Packet = .instr (.param 1 1 0 0x3F800000 0x3F800000 0x47) := by
  decide

/-- For `MessageRejectedByLengthThenMagic`: one byte short, the longest message, and the right length with a wrong magic. -/
theorem witness_MessageRejectedByLengthThenMagic :
    (noise 200).length ≤ small.msgMax ∧ (noise 200).length ≠ 201 ∧ (noise 202).length ≤ small.msgMax ∧
    (noise 202).length ≠ 201 ∧ (noise 7).length = 7 ∧ le16 (byteAt (noise 7) 0) (byteAt (noise 7) 1) ≠ 0x5AA5#16 ∧
    (noise 17).length = 17 ∧ le16 (byteAt (noise 17) 0) (byteAt (noise 17) 1) ≠ 0xAA55#16 ∧
    (noise 201).length = 201 ∧ le16 (byteAt (noise 201) 0) (byteAt (noise 201) 1) ≠ 0xAA55#16 := by decide +kernel

theorem witness_PackedPacketsAreAccepted :
    (let s := queued (packLeds z 255)
     z.length = 196 ∧ s.block.fs = .searching ∧ s.block.haveSync0 = false ∧ s.block.rxq = packLeds z 255) ∧
    (let s := queued (packBoot bootSsid bootPassword bootIp 65535 0 ++ [0xAA])
     bootSsid.length = 32 ∧ bootPassword.length = 64 ∧ bootIp.length = 4 ∧ s.block.bootState = .wait ∧
     s.block.bootFill = 0 ∧ s.block.bootBuf.length = 107 ∧
     s.block.rxq = packBoot bootSsid bootPassword bootIp 65535 0 ++ [0xAA]) := by decide +kernel

/-- The state that a message too short leaves on the button channel. -/
def rejectedBtn : State :=
  { State.reset with
    block := { Block.reset with invalid := ⟨0, 0, 1⟩ }
    results := [.rx (.frameRejected (.frameInvalid .length))] }

/-- For `RejectionMovesOnlyItsCounter`, `MessageChannelsDoNotInterfere` and `MessageResultDependsOnOwnChannel` (with both states the reset
state). -/
theorem witness_messageRejected :
    step (State.reset.request (MsgChan.decode .btn [])) = .next rejectedBtn ∧
    rejectedBtn.results = State.reset.results ++ [.rx (.frameRejected (.frameInvalid .length))] := ⟨rfl, rfl⟩

/-- For `RejectionMovesOnlyItsCounter`, a corrupt message. -/
theorem witness_messageCorrupt :
    answers State.reset (MsgChan.decode .btn [0xA5, 0x5A, 1, 0, 0, 1, 0x6D]) =
      some (State.reset.results ++ [.rx (.frameRejected .frameCorrupt)]) := by decide

/-- For `FlippedBitIsNeverAccepted`: the last bit of the start, the first after it, the last of the packet. -/
theorem witness_FlippedBitIsNeverAccepted :
    (let i : Instr := .btn 1 0 0 1 0x6C
     i.wellFormed = true ∧ i.packet = MsgChan.packet .btn ∧ crcMatches (encode i) = true ∧
     15 < 8 * (encode i).length ∧ 16 < 8 * (encode i).length ∧ 55 < 8 * (encode i).length) ∧
    (let i : Instr := .leds z 1 0x2C
     let s := queued (flipBit (encode i) 1599 ++ [])
     i.wellFormed = true ∧ i.packet = .leds ∧ crcMatches (encode i) = true ∧ 16 ≤ 1599 ∧ 1599 < 8 * (encode i).length ∧
     s.block.fs = .searching ∧ s.block.haveSync0 = false ∧ s.block.rxq = flipBit (encode i) 1599 ++ []) ∧
    (let i : Instr := .boot bootSsid bootPassword bootIp 8888 8889 0x6B
     let s := queued (flipBit (encode i) 15 ++ [0x55])
     i.wellFormed = true ∧ i.packet = .boot ∧ crcMatches (encode i) = true ∧ 15 < 8 * (encode i).length ∧
     s.block.bootState = .wait ∧ s.block.bootFill = 0 ∧ s.block.bootBuf.length = 107 ∧
     s.block.rxq = flipBit (encode i) 15 ++ [0x55]) := by decide +kernel

/-- V41-8's case `AA D5`, for the sync clauses of `FlippedBitIsNeverAccepted`. -/
theorem witness_FlippedBitIsNeverAccepted_sync :
    let i : Instr := .leds z 1 0x2C
    let s := queued (flipBit (encode i) 8)
    i.wellFormed = true ∧ i.packet = .leds ∧ 8 < 16 ∧ s.block.fs = .searching ∧ s.block.haveSync0 = false ∧
    s.block.rxq = flipBit (encode i) 8 ∧ NoSyncPair (flipBit (encode i) 8) ∧ 200 < s.cfg.searchBudget := by
  refine ⟨by decide +kernel, rfl, by decide, rfl, rfl, rfl, ?_, by decide⟩
  have hl : (flipBit (encode (.leds z 1 0x2C)) 8).length = 200 := by decide +kernel
  have h : ∀ k < 200, ¬ (byteAt (flipBit (encode (.leds z 1 0x2C)) 8) k = sync0 ∧
    byteAt (flipBit (encode (.leds z 1 0x2C)) 8) (k + 1) = sync1) := by decide +kernel
  intro k hk
  exact h k (by omega)

/-- For the clauses of `GapArithmetic`: modulus 60, expected 60 (last 59); received 61 (above, out of range), 59 and 0 (below), 60. -/
theorem witness_GapArithmetic :
    let e := nextCtr 59 (SeqChan.modulus .leds)
    e = 60 ∧ (e ≤ 61 ∧ 61 ≠ e ∧ SeqChan.modulus .leds < 61) ∧ 59 < e ∧ 0 < e ∧
    (1 ≤ 59 ∧ 59 ≤ SeqChan.modulus .leds ∧ 1 ≤ 60 ∧ 60 ≤ SeqChan.modulus .leds) := by decide

theorem witness_TransmitCounterCycles : 1 ≤ 59 ∧ 59 < SeqChan.modulus .leds := by decide

/-- For `SessionCountsLosses`: a whole cycle lost, and a wrap of the counter. -/
theorem witness_SessionCountsLosses :
    let ks := [3, 255, 2]
    Block.reset.haveLast.get .param = false ∧ 1 ≤ 255 ∧ 255 ≤ SeqChan.modulus .param ∧
    Block.reset.accepted.get (SeqChan.toChan .param) + ks.length ≤ 2 ^ small.cntW - 1 ∧
    Block.reset.skipped.get .param + (ks.tail.map (· % SeqChan.modulus .param)).sum ≤ 2 ^ small.cntW - 1 := by decide

/-- For `BootPollAccumulates`: 106 bytes in all. -/
theorem witness_BootPollAccumulates :
    let s := start small { Block.reset with rxq := noise 6, bootFill := 100 }
    s.block.bootState = .wait ∧ s.block.bootFill + s.block.rxq.length < 107 ∧ s.block.bootBuf.length = 107 := by decide

/-- For `StepRunsBootPacket`: a right packet whose last byte is missing, and a packet of zeros. -/
theorem witness_StepRunsBootPacket :
    (let s := start small { Block.reset with bootBuf := bootPacket.take 106 ++ [0], bootFill := 106, rxq := [0x6B] ++ [0xAA] }
     s.block.bootState = .wait ∧ s.block.bootBuf.length = 107 ∧ s.block.rxq = [0x6B] ++ [0xAA] ∧
     s.block.bootFill + ([0x6B] : List Byte).length = 107 ∧
     PacketType.boot.decode (s.block.bootBuf.take s.block.bootFill ++ [0x6B]) =
       .instr (.boot bootSsid bootPassword bootIp 8888 8889 0x6B)) ∧
    (let s := start small { Block.reset with bootFill := 106, rxq := [0] ++ [] }
     s.block.bootState = .wait ∧ s.block.bootBuf.length = 107 ∧ s.block.rxq = [0] ++ [] ∧
     s.block.bootFill + ([0] : List Byte).length = 107 ∧
     ¬ (byteAt (s.block.bootBuf.take s.block.bootFill ++ [0]) 0 = 0xCC#8 ∧
       byteAt (s.block.bootBuf.take s.block.bootFill ++ [0]) 1 = 0xDD#8)) := by decide

/-- For `BootTimeoutAndTerminalPolls`: each of the three kinds of `boot_state`. -/
theorem witness_BootTimeoutAndTerminalPolls :
    State.reset.block.bootState = .wait ∧
    (start small { Block.reset with bootBuf := bootPacket, bootFill := 107, bootState := .done }).block.bootState = .done ∧
    (start small { Block.reset with bootState := .failed .timeout }).block.bootState = .failed .timeout := by decide

/-- For `TerminalBootStateIsSticky` and `DoneStaysValid`: a finished bootstrap, polled again. -/
def finished : State := start small { Block.reset with bootBuf := bootPacket, bootFill := 107, bootState := .done }

theorem witness_TerminalBootStateIsSticky_DoneStaysValid :
    finished.block.bootState.terminal = true ∧ (finished.request .recvLeds).pending.head? ≠ some .reset ∧
    step (finished.request .recvLeds) = .next { finished with results := [.rx (.noData .empty)] } ∧
    DoneIsValid finished.block :=
  ⟨rfl, by decide, rfl, fun _ => ⟨⟨_, test_decode_boot⟩, by decide +kernel⟩⟩

theorem witness_InexpressibleRequestsAreRefused :
    Operation.expressible (start small Block.reset).cfg (.decBtn (noise 203)) = false := by decide +kernel

theorem witness_EveryStepCompletes : State.reset.pending = [] ∧ (State.reset.request .reset).pending ≠ [] := by decide

/-- For `InvariantsKeptByEveryStep` and `CountersNeverDecrease`: the finished bootstrap meets the invariants. -/
theorem witness_InvariantsKeptByEveryStep_CountersNeverDecrease :
    finished.Inv ∧ step (finished.request .recvLeds) = .next { finished with results := [.rx (.noData .empty)] } ∧
    (finished.request .recvLeds).pending.head? ≠ some .reset := by
  refine ⟨?_, rfl, by decide⟩
  constructor <;> first | decide | (intro c; cases c <;> decide)

end Sys2Proof.Tests
end

section
/-! The scope of the operations (`00_scope.md`): every step of every state completes. -/

namespace Sys2Proof.Machine

/-- With a request pending, the step completes: it performs the oldest request, whose block is one of that operation's `Move`s, takes it off
the list, and appends one value. `step_inversion` says what a step can do; this says that there is one. -/
theorem step_completes_of_pending (s : State) (op : Operation) (rest : List Operation) (hp : s.pending = op :: rest) :
    ∃ b r, Move s.cfg s.block op b ∧
      step s = .next { s with block := b, pending := rest, results := s.results ++ [r] } := by
  obtain ⟨b, r, hmove, hperform⟩ := perform_completes op s
  have hstep : step s = perform op { s with pending := rest } := by simp only [step, hp]
  exact ⟨b, r, hmove, hstep.trans (hperform rest s.results)⟩

/-- Settles O56, by cases on the pending requests: none (the idle step), or an oldest one (`step_completes_of_pending`). -/
theorem everyStepCompletes : Obligations.EveryStepCompletes := by
  intro s
  cases hp : s.pending with
  | nil => exact ⟨s, step_idle s hp, rfl, hp, fun _ => rfl, fun h => absurd rfl h⟩
  | cons op rest =>
    obtain ⟨b, r, -, hstep⟩ := step_completes_of_pending s op rest hp
    exact ⟨_, hstep, rfl, rfl, fun h => absurd h (List.cons_ne_nil op rest), fun _ => ⟨r, rfl⟩⟩

end Sys2Proof.Machine
end

section
/-! The state of the link block (`10_state.md`): its reset value, the invariants of R39 that every step keeps, the monotone counters of
R27, and the meaning of DONE (R31). Each update of the block gets one lemma per property; a step is then a case split over `Move`. -/

namespace Sys2Proof.Machine

/-- What `step_inversion` says of the block and the parameters: they stay, or the oldest request makes one of its moves. -/
theorem step_moves_block {s t : State} (h : step s = .next t) :
    t.cfg = s.cfg ∧
      (t.block = s.block ∨ ∃ op, s.pending.head? = some op ∧ Move s.cfg s.block op t.block) := by
  obtain ⟨-, rfl⟩ | ⟨op, rest, b, r, hp, hmove, rfl⟩ := step_inversion s t h
  · exact ⟨rfl, .inl rfl⟩
  · exact ⟨rfl, .inr ⟨op, by simp [hp], hmove⟩⟩

/-! ## What the tracker leaves in the registers of every channel -/

@[simp] theorem track_haveLast_get (cfg : Config) (b : Block) (c d : SeqChan) (r : Byte) :
    (track cfg b c r).1.haveLast.get d = if d = c then true else b.haveLast.get d := PerSeq.get_set ..

@[simp] theorem track_accepted_get (cfg : Config) (b : Block) (c : SeqChan) (d : Chan) (r : Byte) :
    (track cfg b c r).1.accepted.get d =
      if d = c.toChan then satInc cfg (b.accepted.get c.toChan) 1 else b.accepted.get d := PerChan.get_set ..

/-! ## The invariants -/

/-- R39 (2) after the searching phase: the flag is remembered only where the pair was not found, and there `fs` is SEARCHING. -/
theorem searchPhase_haveSync0_searching (cfg : Config) (b : Block) (h : b.haveSync0 = true → b.fs = .searching) :
    (searchPhase cfg b).1.haveSync0 = true → (searchPhase cfg b).1.fs = .searching := by
  cases hfs : b.fs with
  | reading => simpa [searchPhase, hfs] using h
  | searching =>
    obtain ⟨-, -, -, -, found_clears_flag, -⟩ := search_spec cfg.searchBudget b.rxq 0 b.haveSync0
    simp only [searchPhase, hfs]
    intro hflag
    have hstop : (search cfg.searchBudget b.rxq 0 b.haveSync0).stop ≠ .found :=
      fun hfound => by simp [found_clears_flag hfound] at hflag
    simp [hstop]

/-- R39 for the block of R38. -/
theorem blockInv_reset (cfg : Config) : BlockInv cfg Block.reset where
  haveSync0_searching _ := rfl
  rxq_le_depth := Nat.zero_le _
  txCtr_range c := by cases c <;> decide
  untracked_counts_zero c _ := by cases c <;> decide
  tracked_accepted_pos c h := by cases c <;> cases h
  bootFill_le := Nat.zero_le _
  full_is_decided h := by cases h
  done_is_full h := by cases h
  syncFailures_le := Nat.zero_le _
  accepted_le c := by cases c <;> exact Nat.zero_le _
  skipped_le c := by cases c <;> exact Nat.zero_le _
  corrupted_le c := by cases c <;> exact Nat.zero_le _
  invalid_le c := by cases c <;> exact Nat.zero_le _
  bootBuf_length := List.length_replicate

section Updates
variable {cfg : Config} {b : Block}

/-- The queue and the deframer are bound by R39 (2) and (3) alone. -/
theorem BlockInv.set_deframer (h : BlockInv cfg b) {q : List Byte} {fs : FrameState} {flag : Bool}
    (hq : q.length ≤ cfg.rxqDepth) (hflag : flag = true → fs = .searching) :
    BlockInv cfg { b with rxq := q, fs := fs, haveSync0 := flag } :=
  { h with haveSync0_searching := hflag, rxq_le_depth := hq }

theorem BlockInv.qPush (h : BlockInv cfg b) (v : Byte) (hq : b.qLen < cfg.rxqDepth) : BlockInv cfg (b.qPush v) :=
  h.set_deframer (by simpa using hq) h.haveSync0_searching

theorem BlockInv.searchPhase (h : BlockInv cfg b) : BlockInv cfg (searchPhase cfg b).1 := by
  have hq : (Machine.searchPhase cfg b).1.rxq.length ≤ cfg.rxqDepth := by
    obtain ⟨k, hk, -, -⟩ := searchPhase_removes cfg b
    have hdepth := h.rxq_le_depth
    simp only [hk, List.length_drop, Block.qLen_eq] at hdepth ⊢
    omega
  rw [searchPhase_frame]
  exact h.set_deframer hq (searchPhase_haveSync0_searching cfg b h.haveSync0_searching)

theorem BlockInv.afterPayload (h : BlockInv cfg b) : BlockInv cfg (afterPayload cfg b) :=
  h.searchPhase.set_deframer ((List.drop_sublist ..).length_le.trans h.searchPhase.rxq_le_depth) fun _ => rfl

theorem BlockInv.takeCtr (h : BlockInv cfg b) (c : SeqChan) : BlockInv cfg (takeCtr b c).2 :=
  { h with
    txCtr_range := fun d => by
      simp only [Machine.takeCtr, PerSeq.get_set]
      split
      · next hd =>
        subst hd
        have hnext := nextCtr_range (b.txCtr.get d).toNat d
        have hbyte := modulus_le d
        rw [BitVec.toNat_ofNat, Nat.mod_eq_of_lt (by omega)]
        exact hnext
      · exact h.txCtr_range d }

theorem BlockInv.record_syncNotFound (h : BlockInv cfg b) : BlockInv cfg (record cfg b .syncNotFound) :=
  { h with syncFailures_le := satInc_le_top .. }

theorem BlockInv.record_frameCorrupt (h : BlockInv cfg b) (c : Chan) : BlockInv cfg (record cfg b (.frameCorrupt c)) :=
  { h with
    corrupted_le := fun d => by
      simp only [record, PerChan.get_set]
      split
      · exact satInc_le_top ..
      · exact h.corrupted_le d }

theorem BlockInv.record_frameInvalid (h : BlockInv cfg b) (c : MsgChan) (why : InvalidCause) :
    BlockInv cfg (record cfg b (.frameInvalid c why)) :=
  { h with
    invalid_le := fun d => by
      simp only [record, PerMsg.get_set]
      split
      · exact satInc_le_top ..
      · exact h.invalid_le d }

/-- An accepted button frame is counted on a channel without a tracker, so R39 (5) and (6) do not speak of it. -/
theorem BlockInv.accept_btn (h : BlockInv cfg b) :
    BlockInv cfg { b with accepted := b.accepted.set .btn (satInc cfg (b.accepted.get .btn) 1) } :=
  { h with
    untracked_counts_zero := fun d hd => by cases d <;> exact h.untracked_counts_zero _ hd
    tracked_accepted_pos := fun d hd => by cases d <;> exact h.tracked_accepted_pos _ hd
    accepted_le := fun d => by
      simp only [PerChan.get_set]
      split
      · exact satInc_le_top ..
      · exact h.accepted_le d }

theorem BlockInv.track (h : BlockInv cfg b) (c : SeqChan) (r : Byte) : BlockInv cfg (track cfg b c r).1 :=
  { h with
    untracked_counts_zero := fun d hd => by
      simp only [track_haveLast_get] at hd
      split at hd
      · cases hd
      · next hne =>
        obtain ⟨haccepted, hskipped⟩ := h.untracked_counts_zero d hd
        obtain hsame | ⟨heq, -⟩ := track_skipped_get cfg b c d r
        · simp [hne, haccepted, hsame, hskipped]
        · exact absurd heq hne
    tracked_accepted_pos := fun d hd => by
      simp only [track_accepted_get, SeqChan.toChan_inj]
      split
      · exact satInc_one_pos ..
      · next hne => exact h.tracked_accepted_pos d (by simpa [hne] using hd)
    accepted_le := fun d => by
      simp only [track_accepted_get]
      split
      · exact satInc_le_top ..
      · exact h.accepted_le d
    skipped_le := fun d => by
      obtain hsame | ⟨-, -, hcounted⟩ := track_skipped_get cfg b c d r
      · exact hsame ▸ h.skipped_le d
      · exact hcounted ▸ satInc_le_top .. }

/-- The accumulated bytes with any `boot_state` that R31 allows beside their number. -/
theorem BlockInv.accumulate (h : BlockInv cfg b) (st : BootState)
    (hfull : (accumulate b).bootFill = bootLen → st = .done ∨ st = .failed .invalidSync ∨ st = .failed .invalidCrc)
    (hdone : st = .done → (accumulate b).bootFill = bootLen) :
    BlockInv cfg { accumulate b with bootState := st } :=
  { h with
    rxq_le_depth := (List.drop_sublist ..).length_le.trans h.rxq_le_depth
    bootFill_le := accumulate_fill_le b h.bootFill_le
    full_is_decided := hfull
    done_is_full := hdone
    bootBuf_length := accumulate_bootBuf_length b h.bootFill_le h.bootBuf_length }

/-- The timeout decides only a waiting handshake, whose buffer is not full (R31). -/
theorem BlockInv.bootTimeout (h : BlockInv cfg b) (hwait : b.bootState = .wait) :
    BlockInv cfg { b with bootState := .failed .timeout } :=
  { h with
    full_is_decided := fun hfull => by simpa [hwait] using h.full_is_decided hfull
    done_is_full := fun hdone => by cases hdone }

/-- R39 is kept by every move. -/
theorem Move.keeps_blockInv {op : Operation} {b' : Block} (hmove : Move cfg b op b') (h : BlockInv cfg b) :
    BlockInv cfg b' := by
  cases hmove with
  | keep => exact h
  | reset => exact blockInv_reset cfg
  | encLeds | encLedd | encParam => exact h.takeCtr _
  | push v hq => exact h.qPush v hq
  | searchEmpty | incomplete => exact h.searchPhase
  | searchFailed => exact h.searchPhase.record_syncNotFound
  | frameAccepted _ _ ctr => exact h.afterPayload.track .leds ctr
  | frameCorrupt => exact h.afterPayload.record_frameCorrupt .leds
  | messageInvalid c _ why => exact h.record_frameInvalid c why
  | messageCorrupt c => exact h.record_frameCorrupt c.toChan
  | leddAccepted _ ctr | paramAccepted _ ctr => exact h.track _ ctr
  | btnAccepted => exact h.accept_btn
  | bootPending hwait hf =>
    exact h.accumulate b.bootState (fun hfull => absurd hfull hf.ne) (fun hdone => by simp [hwait] at hdone)
  | bootFailed _ _ why hwhy => exact h.accumulate _ (fun _ => by simpa using hwhy) (fun hdone => by cases hdone)
  | bootDone _ hf =>
    have hfull := Nat.le_antisymm (accumulate_fill_le b h.bootFill_le) (Nat.le_of_not_lt hf)
    exact h.accumulate _ (fun _ => .inl rfl) (fun _ => hfull)
  | bootTimeout hwait => exact h.bootTimeout hwait

/-! ## The counters -/

theorem CountersLe.refl (b : Block) : CountersLe b b :=
  ⟨le_rfl, fun _ => le_rfl, fun _ => le_rfl, fun _ => le_rfl, fun _ => le_rfl⟩

theorem CountersLe.trans {b₁ b₂ b₃ : Block} (h₁ : CountersLe b₁ b₂) (h₂ : CountersLe b₂ b₃) : CountersLe b₁ b₃ where
  syncFailures_le := h₁.syncFailures_le.trans h₂.syncFailures_le
  accepted_le c := (h₁.accepted_le c).trans (h₂.accepted_le c)
  skipped_le c := (h₁.skipped_le c).trans (h₂.skipped_le c)
  corrupted_le c := (h₁.corrupted_le c).trans (h₂.corrupted_le c)
  invalid_le c := (h₁.invalid_le c).trans (h₂.invalid_le c)

theorem countersLe_searchPhase (cfg : Config) (b : Block) : CountersLe b (searchPhase cfg b).1 := by
  rw [searchPhase_frame]
  exact { CountersLe.refl b with }

theorem countersLe_afterPayload (cfg : Config) (b : Block) : CountersLe b (afterPayload cfg b) :=
  { countersLe_searchPhase cfg b with }

/-- Recording a condition lowers no counter that is within its range. -/
theorem BlockInv.countersLe_record (h : BlockInv cfg b) (c : Condition) : CountersLe b (record cfg b c) := by
  cases c with
  | empty | frameIncomplete | bootstrapTimeout | bootstrapInvalidSync | bootstrapInvalidCrc =>
    exact { CountersLe.refl b with }
  | syncNotFound => exact { CountersLe.refl b with syncFailures_le := le_satInc _ _ _ h.syncFailures_le }
  | frameCorrupt c =>
    refine { CountersLe.refl b with corrupted_le := fun d => ?_ }
    simp only [record, PerChan.get_set]
    split
    · next hd => exact hd ▸ le_satInc _ _ _ (h.corrupted_le d)
    · exact le_rfl
  | frameInvalid c =>
    refine { CountersLe.refl b with invalid_le := fun d => ?_ }
    simp only [record, PerMsg.get_set]
    split
    · next hd => exact hd ▸ le_satInc _ _ _ (h.invalid_le d)
    · exact le_rfl

theorem BlockInv.countersLe_accept_btn (h : BlockInv cfg b) :
    CountersLe b { b with accepted := b.accepted.set .btn (satInc cfg (b.accepted.get .btn) 1) } := by
  refine { CountersLe.refl b with accepted_le := fun d => ?_ }
  simp only [PerChan.get_set]
  split
  · next hd => exact hd ▸ le_satInc _ _ _ (h.accepted_le d)
  · exact le_rfl

theorem BlockInv.countersLe_track (h : BlockInv cfg b) (c : SeqChan) (r : Byte) :
    CountersLe b (Machine.track cfg b c r).1 := by
  refine { CountersLe.refl b with accepted_le := fun d => ?_, skipped_le := fun d => ?_ }
  · simp only [track_accepted_get]
    split
    · next hd => exact hd ▸ le_satInc _ _ _ (h.accepted_le d)
    · exact le_rfl
  · obtain hsame | ⟨rfl, -, hcounted⟩ := track_skipped_get cfg b c d r
    · exact hsame.ge
    · exact hcounted ▸ le_satInc _ _ _ (h.skipped_le d)

/-- No move but the reset lowers a counter (R27). -/
theorem Move.countersLe {op : Operation} {b' : Block} (hmove : Move cfg b op b') (h : BlockInv cfg b)
    (hop : op ≠ .reset) : CountersLe b b' := by
  cases hmove with
  | keep => exact .refl b
  | reset => exact absurd rfl hop
  | encLeds | encLedd | encParam | push | bootPending | bootFailed | bootDone | bootTimeout =>
    exact { CountersLe.refl b with }
  | searchEmpty | incomplete => exact countersLe_searchPhase cfg b
  | searchFailed => exact (countersLe_searchPhase cfg b).trans (h.searchPhase.countersLe_record _)
  | frameAccepted => exact (countersLe_afterPayload cfg b).trans (h.afterPayload.countersLe_track ..)
  | frameCorrupt => exact (countersLe_afterPayload cfg b).trans (h.afterPayload.countersLe_record _)
  | messageInvalid | messageCorrupt => exact h.countersLe_record _
  | leddAccepted | paramAccepted => exact h.countersLe_track ..
  | btnAccepted => exact h.countersLe_accept_btn

end Updates

/-! ## DONE -/

/-- Fields read one after the other are joined again from the right, each in front of the rest of the packet. -/
theorem bytesAt_append_drop (s : List Byte) (off n : Nat) : bytesAt s off n ++ s.drop (off + n) = s.drop off := by
  rw [bytesAt, ← List.drop_drop, List.take_append_drop]

theorem byteAt_cons_drop (s : List Byte) (off : Nat) (h : off < s.length) :
    byteAt s off :: s.drop (off + 1) = s.drop off := by
  simp [byteAt, List.getD_eq_getElem?_getD, h]

/-- A 16-bit field read from a packet and stored again is the two bytes it was read from. -/
theorem store16_field16_append_drop (s : List Byte) (off : Nat) (h : off + 1 < s.length) :
    store16 (field16 s off) ++ s.drop (off + 2) = s.drop off := by
  simp [store16, field16, byteAt_cons_drop _ _ h, byteAt_cons_drop s off (by omega)]

/-- A bootstrap packet that decodes is the encoding of what it decodes to, so its CRC check is the check of the accumulated bytes. -/
theorem encode_of_decode_boot {bytes : List Byte} {i : Instr} (h : PacketType.boot.decode bytes = .instr i) :
    encode i = bytes := by
  obtain ⟨hlen, hstart, rfl⟩ := decode_eq_instr _ _ _ h
  have hlen : bytes.length = 107 := hlen
  obtain ⟨h0, h1⟩ : byteAt bytes 0 = bootSync0 ∧ byteAt bytes 1 = bootSync1 := by
    simpa [PacketType.startFits] using hstart
  have hcrc : [byteAt bytes 106] = bytes.drop 106 := by
    rw [← byteAt_cons_drop bytes 106 (by omega), List.drop_eq_nil_of_le (by omega)]
  calc encode (PacketType.boot.fieldsOf bytes)
      = byteAt bytes 0 :: byteAt bytes 1 :: (bytesAt bytes 2 32 ++ (bytesAt bytes 34 64 ++ (bytesAt bytes 98 4 ++
          (store16 (field16 bytes 102) ++ (store16 (field16 bytes 104) ++ [byteAt bytes 106]))))) := by
        simp [PacketType.fieldsOf, encode, encodeBody, crcField, h0, h1]
    _ = bytes := by
        rw [hcrc, store16_field16_append_drop _ _ (by omega), store16_field16_append_drop _ _ (by omega),
          bytesAt_append_drop, bytesAt_append_drop, bytesAt_append_drop, byteAt_cons_drop _ _ (by omega),
          byteAt_cons_drop _ _ (by omega), List.drop_zero]

/-- `DoneIsValid` speaks of two registers only. -/
theorem DoneIsValid.of_same_registers {b b' : Block} (h : DoneIsValid b) (hstate : b'.bootState = b.bootState)
    (hbuf : b'.bootBuf = b.bootBuf) : DoneIsValid b' := by
  unfold DoneIsValid
  rw [hstate, hbuf]
  exact h

theorem doneIsValid_of_ne_done {b : Block} (h : b.bootState ≠ .done) : DoneIsValid b := fun hdone => absurd hdone h

theorem DoneIsValid.searchPhase {b : Block} (h : DoneIsValid b) (cfg : Config) : DoneIsValid (searchPhase cfg b).1 := by
  rw [searchPhase_frame]
  exact h.of_same_registers rfl rfl

/-- R31 is kept by every move: only the bootstrap that passed both checks enters DONE. -/
theorem Move.keeps_doneIsValid {cfg : Config} {b b' : Block} {op : Operation} (hmove : Move cfg b op b')
    (h : DoneIsValid b) : DoneIsValid b' := by
  cases hmove with
  | keep => exact h
  | bootDone _ _ i hi hc => exact fun _ => ⟨⟨i, hi⟩, encode_of_decode_boot hi ▸ hc⟩
  | bootPending hwait => exact doneIsValid_of_ne_done (by simp [accumulate, hwait])
  | reset | bootFailed | bootTimeout => exact doneIsValid_of_ne_done nofun
  | searchEmpty | incomplete | searchFailed | frameAccepted | frameCorrupt =>
    exact (h.searchPhase cfg).of_same_registers rfl rfl
  | encLeds | encLedd | encParam | push | messageInvalid | messageCorrupt | leddAccepted | paramAccepted | btnAccepted =>
    exact h.of_same_registers rfl rfl

/-! ## The statements -/

/-- Settles O53: `RESET` leaves the block of R38 whatever the state was, and the machine starts with that block. -/
theorem resetValues : Obligations.ResetValues := ⟨fun _ => rfl, rfl⟩

/-- Settles O58. -/
theorem resetMeetsInvariants : Obligations.ResetMeetsInvariants :=
  ⟨blockInv_reset Config.default, blockInv_reset⟩

/-- Settles O59, by the moves a step can make (`Move.keeps_blockInv`). -/
theorem invariantsKeptByEveryStep : Obligations.InvariantsKeptByEveryStep := by
  intro s t hinv hstep
  obtain ⟨hcfg, hsame | ⟨op, -, hmove⟩⟩ := step_moves_block hstep
  · simpa only [State.Inv, hcfg, hsame] using hinv
  · simpa only [State.Inv, hcfg] using hmove.keeps_blockInv hinv

/-- Settles O60: no move but the reset lowers a counter, and the top values are part of the invariant of the next state. -/
theorem countersNeverDecrease : Obligations.CountersNeverDecrease := by
  intro s t hinv hstep hnoReset
  obtain ⟨hcfg, hmoves⟩ := step_moves_block hstep
  have hnext : BlockInv s.cfg t.block := hcfg ▸ invariantsKeptByEveryStep s t hinv hstep
  refine ⟨?_, hnext.syncFailures_le, hnext.accepted_le, hnext.skipped_le, hnext.corrupted_le, hnext.invalid_le⟩
  obtain hsame | ⟨op, hhead, hmove⟩ := hmoves
  · exact hsame ▸ .refl s.block
  · exact hmove.countersLe hinv fun hreset => hnoReset (hreset ▸ hhead)

/-- Settles O52, by the moves a step can make (`Move.keeps_doneIsValid`). -/
theorem doneStaysValid : Obligations.DoneStaysValid := by
  intro s t hdone hstep
  obtain ⟨-, hsame | ⟨op, -, hmove⟩⟩ := step_moves_block hstep
  · exact hsame ▸ hdone
  · exact hmove.keeps_doneIsValid hdone

/-- Settles O57, by cases on the pending requests: performing one answers the same block and value for all earlier results
(`perform_completes`). -/
theorem resultsAreNeverRead : Obligations.ResultsAreNeverRead := by
  intro s t earlier hstep
  cases hp : s.pending with
  | nil =>
    rw [step_idle s hp] at hstep
    cases hstep
    simp [hp]
  | cons op rest =>
    obtain ⟨b, r, -, hperform⟩ := perform_completes op s
    have hany (results : List Result) :
        step { s with results := results } =
          .next { s with block := b, pending := rest, results := results ++ [r] } := by
      simpa only [step, hp] using hperform rest results
    have ht := (hany s.results).symm.trans hstep
    cases ht
    simpa [hp] using hany earlier

end Sys2Proof.Machine
end

section
/-! The receive queue (`20_memory.md`): what `RX_PUSH` does, and that every operation but `RESET` keeps the queue first in, first out. -/

namespace Sys2Proof.Machine

/-! ## `RX_PUSH` -/

/-- The byte of an `RX_PUSH` has no size to check, so the request always reaches its operation (R53). -/
theorem step_request_rxPush (s : State) (v : Byte) : step (s.request (.rxPush v)) = .next (performRxPush v s) := rfl

theorem performRxPush_of_space {s : State} (v : Byte) (h : s.block.rxq.length < s.cfg.rxqDepth) :
    performRxPush v s = s.complete { s.block with rxq := s.block.rxq ++ [v] } .nothing := if_pos h

theorem performRxPush_of_full {s : State} (v : Byte) (h : ¬ s.block.rxq.length < s.cfg.rxqDepth) :
    performRxPush v s = s.complete s.block (.refusedRequest .queueFull) := if_neg h

/-- Settles O22, by the two branches of `RX_PUSH`: there is a free place, or there is none. -/
theorem rxPushQueuesOrRefuses : Obligations.RxPushQueuesOrRefuses := by
  intro s v
  constructor
  · intro hspace
    rw [Performs, step_request_rxPush, performRxPush_of_space v hspace, State.complete]
  · intro hfull
    rw [Performs, step_request_rxPush, performRxPush_of_full v hfull, State.complete]

/-! ## First in, first out -/

/-- The bytes a bootstrap poll takes from the queue are its oldest. -/
theorem accumulate_rxq (b : Block) : (accumulate b).rxq = b.rxq.drop (min b.rxq.length (bootLen - b.bootFill)) := rfl

/-- The searching phase takes the oldest bytes, and the payload then taken is the oldest of what is left. -/
theorem afterPayload_removes (cfg : Config) (b : Block) : ∃ n, (afterPayload cfg b).rxq = b.rxq.drop n := by
  obtain ⟨k, hk, -⟩ := searchPhase_removes cfg b
  exact ⟨k + readLen, by rw [afterPayload, hk, List.drop_drop]⟩

theorem record_rxq (cfg : Config) (b : Block) (c : Condition) : (record cfg b c).rxq = b.rxq := (record_frame cfg b c).1

/-- The queue after a move that is no reset: the receiving operations take its oldest bytes, a push adds the newest, and the others leave
it as it is. -/
theorem Move.rxq_fifo {cfg : Config} {b b' : Block} {op : Operation} (hmove : Move cfg b op b') (hop : op ≠ .reset) :
    (∃ n, b'.rxq = b.rxq.drop n) ∨ ∃ v, op = .rxPush v ∧ b'.rxq = b.rxq ++ [v] := by
  cases hmove with
  | reset => exact absurd rfl hop
  | push v => exact .inr ⟨v, rfl, rfl⟩
  | searchEmpty | incomplete | searchFailed =>
    obtain ⟨k, hk, -⟩ := searchPhase_removes cfg b
    exact .inl ⟨k, hk⟩
  | frameAccepted | frameCorrupt => exact .inl (afterPayload_removes cfg b)
  | bootPending | bootFailed | bootDone => exact .inl ⟨_, accumulate_rxq b⟩
  | messageInvalid | messageCorrupt => exact .inl ⟨0, record_rxq ..⟩
  | keep | encLeds | encLedd | encParam | leddAccepted | paramAccepted | btnAccepted | bootTimeout =>
    exact .inl ⟨0, rfl⟩

/-- Settles O23, by the moves a step can make (`Move.rxq_fifo`). -/
theorem queueIsFifo : Obligations.QueueIsFifo := by
  intro s t hstep hnoReset
  obtain ⟨-, hsame | ⟨op, hhead, hmove⟩⟩ := step_moves_block hstep
  · exact .inl ⟨0, by rw [hsame, List.drop_zero]⟩
  · have hop : op ≠ .reset := fun hreset => hnoReset (hreset ▸ hhead)
    obtain hdrop | ⟨v, rfl, hpush⟩ := hmove.rxq_fifo hop
    · exact .inl hdrop
    · exact .inr ⟨v, hhead, hpush⟩

end Sys2Proof.Machine
end

section
/-! The encoding (`30_encoding.md`): the decoder answers exactly on its type's length and first two wire bytes, and it and the encoder are
inverse to each other. -/

namespace Sys2Proof
open Machine

/-! ## Reading fields from joined byte sequences -/

@[simp] theorem byteAt_cons_zero (b : Byte) (s : List Byte) : byteAt (b :: s) 0 = b := rfl

@[simp] theorem byteAt_cons_succ (b : Byte) (s : List Byte) (n : Nat) : byteAt (b :: s) (n + 1) = byteAt s n := rfl

theorem byteAt_append_of_le (a s : List Byte) {n : Nat} (h : a.length ≤ n) :
    byteAt (a ++ s) n = byteAt s (n - a.length) := by
  simp [byteAt, List.getElem?_append_right h]

@[simp] theorem bytesAt_cons_succ (b : Byte) (s : List Byte) (off n : Nat) :
    bytesAt (b :: s) (off + 1) n = bytesAt s off n := rfl

theorem bytesAt_append_of_le (a s : List Byte) {off : Nat} (n : Nat) (h : a.length ≤ off) :
    bytesAt (a ++ s) off n = bytesAt s (off - a.length) n := by
  simp [bytesAt, List.drop_append, List.drop_eq_nil_of_le h]

theorem bytesAt_append_zero (a s : List Byte) {n : Nat} (h : a.length = n) : bytesAt (a ++ s) 0 n = a := by
  simp [bytesAt, ← h]

@[simp] theorem field16_cons_succ (b : Byte) (s : List Byte) (off : Nat) :
    field16 (b :: s) (off + 1) = field16 s off := rfl

@[simp] theorem field32_cons_succ (b : Byte) (s : List Byte) (off : Nat) :
    field32 (b :: s) (off + 1) = field32 s off := rfl

theorem field16_append_of_le (a s : List Byte) {off : Nat} (h : a.length ≤ off) :
    field16 (a ++ s) off = field16 s (off - a.length) := by
  simp only [field16, byteAt_append_of_le a s h, byteAt_append_of_le a s (Nat.le_succ_of_le h), Nat.succ_sub h]

/-- A stored field is read back at offset 0, and what stands behind it is read past its width. -/
@[simp] theorem field16_store16_append (v : U16) (s : List Byte) : field16 (store16 v ++ s) 0 = v := le16_lo8_hi8 v

@[simp] theorem field16_store16_append_add (v : U16) (s : List Byte) (off : Nat) :
    field16 (store16 v ++ s) (off + 2) = field16 s off := rfl

@[simp] theorem byteAt_store16_append_add (v : U16) (s : List Byte) (n : Nat) :
    byteAt (store16 v ++ s) (n + 2) = byteAt s n := rfl

@[simp] theorem field32_store32_append (w : U32) (s : List Byte) : field32 (store32 w ++ s) 0 = w := le32_byteOf32 w

@[simp] theorem field32_store32_append_add (w : U32) (s : List Byte) (off : Nat) :
    field32 (store32 w ++ s) (off + 4) = field32 s off := rfl

@[simp] theorem byteAt_store32_append_add (w : U32) (s : List Byte) (n : Nat) :
    byteAt (store32 w ++ s) (n + 4) = byteAt s n := rfl

/-! ## Joining the fields that were read -/

/-- A 32-bit field read from a packet and stored again is the four bytes it was read from. -/
theorem store32_field32_append_drop (s : List Byte) (off : Nat) (h : off + 3 < s.length) :
    store32 (field32 s off) ++ s.drop (off + 4) = s.drop off := by
  obtain ⟨h0, h1, h2, h3⟩ := byteOf32_le32 (byteAt s off) (byteAt s (off + 1)) (byteAt s (off + 2)) (byteAt s (off + 3))
  simp only [store32, field32, h0, h1, h2, h3, List.cons_append, List.nil_append]
  rw [byteAt_cons_drop s (off + 3) h, byteAt_cons_drop s (off + 2) (by omega), byteAt_cons_drop s (off + 1) (by omega),
    byteAt_cons_drop s off (by omega)]

/-- The last byte of a packet, where its CRC stands (R83). -/
theorem singleton_byteAt_last (s : List Byte) (off : Nat) (h : s.length = off + 1) : [byteAt s off] = s.drop off := by
  rw [← byteAt_cons_drop s off (by omega), List.drop_eq_nil_of_le (by omega)]

theorem byteAt_start_cons_drop (s : List Byte) (h : 2 ≤ s.length) : byteAt s 0 :: byteAt s 1 :: s.drop 2 = s := by
  rw [byteAt_cons_drop s 1 h, byteAt_cons_drop s 0 (by omega), List.drop_zero]

/-! ## The first two wire bytes -/

/-- The first two wire bytes of each row, as R105 lists them. -/
def PacketType.wireStart : PacketType → Byte × Byte
  | .leds => (0xAA#8, 0x55#8)
  | .ledd => (0x55#8, 0xAA#8)
  | .param => (0x55#8, 0xAA#8)
  | .btn => (0xA5#8, 0x5A#8)
  | .boot => (0xCC#8, 0xDD#8)

/-- The magic of a message type is its two wire bytes, the less significant one first (R51). -/
theorem PacketType.startFits_iff (k : PacketType) (b0 b1 : Byte) :
    k.startFits b0 b1 = true ↔ b0 = k.wireStart.1 ∧ b1 = k.wireStart.2 := by
  cases k with
  | leds | boot => simp [startFits, wireStart]
  | ledd | param | btn => exact beq_iff_eq.trans (le16_eq_iff b0 b1 _)

theorem encode_startFits (i : Instr) : i.packet.startFits (byteAt (encode i) 0) (byteAt (encode i) 1) = true := by
  rw [PacketType.startFits_iff]
  cases i <;> exact ⟨rfl, rfl⟩

theorem encode_length (i : Instr) (h : i.wellFormed = true) : (encode i).length = i.packet.length := by
  cases i with
  | leds => exact Laws.EncodedLength.leds _ _ _ h
  | ledd => exact Laws.EncodedLength.ledd _ _ _ _ h
  | param => exact Laws.EncodedLength.param _ _ _ _ _ _ h
  | btn => exact Laws.EncodedLength.btn _ _ _ _ _ h
  | boot => exact Laws.EncodedLength.boot _ _ _ _ _ _ h

/-! ## The decoder of one packet type -/

theorem PacketType.decode_of_fits {k : PacketType} {s : List Byte} (hlen : s.length = k.length)
    (hstart : k.startFits (byteAt s 0) (byteAt s 1) = true) : k.decode s = .instr (k.fieldsOf s) := by
  simp [PacketType.decode, hlen, hstart]

theorem PacketType.decodes_iff (k : PacketType) (s : List Byte) :
    (∃ i, k.decode s = .instr i) ↔ s.length = k.length ∧ k.startFits (byteAt s 0) (byteAt s 1) = true := by
  constructor
  · rintro ⟨i, hi⟩
    obtain ⟨hlen, hstart, -⟩ := decode_eq_instr _ _ _ hi
    exact ⟨hlen, hstart⟩
  · rintro ⟨hlen, hstart⟩
    exact ⟨_, decode_of_fits hlen hstart⟩

/-- The length and the first two bytes of a sequence, said by writing the two bytes in front of the rest. -/
theorem length_and_start_iff (s : List Byte) (n : Nat) (b0 b1 : Byte) :
    (s.length = n + 2 ∧ byteAt s 0 = b0 ∧ byteAt s 1 = b1) ↔ ∃ tail, s = b0 :: b1 :: tail ∧ tail.length = n := by
  constructor
  · rintro ⟨hlen, rfl, rfl⟩
    exact ⟨s.drop 2, (byteAt_start_cons_drop s (by omega)).symm, by rw [List.length_drop]; omega⟩
  · rintro ⟨tail, rfl, rfl⟩
    exact ⟨rfl, rfl, rfl⟩

theorem PacketType.fieldsOf_packet (k : PacketType) (s : List Byte) : (k.fieldsOf s).packet = k := by cases k <;> rfl

theorem PacketType.fieldsOf_wellFormed {k : PacketType} {s : List Byte} (hlen : s.length = k.length) :
    (k.fieldsOf s).wellFormed = true := by
  cases k with
  | param | btn => rfl
  | leds | ledd | boot => simp [fieldsOf, Instr.wellFormed, hlen, PacketType.length]; decide

/-- R84 to R88: the fields read from the bytes of a packet are the fields the packet was made of. -/
theorem fieldsOf_encode (i : Instr) (h : i.wellFormed = true) : i.packet.fieldsOf (encode i) = i := by
  cases i with
  | leds pixels frameCtr crc =>
    have hp : pixels.length = 196 := by simpa [Instr.wellFormed] using h
    simp [Instr.packet, PacketType.fieldsOf, encode, encodeBody, crcField, hp, byteAt_append_of_le, bytesAt_append_zero]
  | ledd frameCtr reserved pixels crc =>
    have hp : pixels.length = 196 := by simpa [Instr.wellFormed] using h
    simp [Instr.packet, PacketType.fieldsOf, encode, encodeBody, crcField, store16_magicLed, hp, byteAt_append_of_le,
      bytesAt_append_zero]
  | param animType frameCtr p1 p2 p3 crc =>
    simp [Instr.packet, PacketType.fieldsOf, encode, encodeBody, crcField, store16_magicParam]
  | btn => rfl
  | boot ssid password peerIp ledPort buttonPort crc =>
    obtain ⟨⟨hs, hp⟩, hi⟩ : (ssid.length = 32 ∧ password.length = 64) ∧ peerIp.length = 4 := by
      simpa [Instr.wellFormed] using h
    simp [Instr.packet, PacketType.fieldsOf, encode, encodeBody, crcField, hs, hp, hi, byteAt_append_of_le,
      bytesAt_append_zero, bytesAt_append_of_le, field16_append_of_le]

/-- R83 to R88: the fields read from a sequence that fits a row, written again, are the sequence: the offsets leave no gap. -/
theorem PacketType.encode_fieldsOf {k : PacketType} {s : List Byte} (hlen : s.length = k.length)
    (hstart : k.startFits (byteAt s 0) (byteAt s 1) = true) : encode (k.fieldsOf s) = s := by
  have hjoin := byteAt_start_cons_drop s (by rw [hlen]; cases k <;> decide)
  obtain ⟨h0, h1⟩ := (k.startFits_iff _ _).mp hstart
  cases k with
  | leds =>
    have hl : s.length = 200 := hlen
    calc encode (PacketType.leds.fieldsOf s)
        = byteAt s 0 :: byteAt s 1 :: (bytesAt s 2 196 ++ byteAt s 198 :: [byteAt s 199]) := by
          simp [fieldsOf, encode, encodeBody, crcField, h0, h1, wireStart]
      _ = s := by
          rw [singleton_byteAt_last s 199 hl, byteAt_cons_drop s 198 (by omega), bytesAt_append_drop, hjoin]
  | ledd =>
    have hl : s.length = 201 := hlen
    calc encode (PacketType.ledd.fieldsOf s)
        = byteAt s 0 :: byteAt s 1 :: byteAt s 2 :: byteAt s 3 :: (bytesAt s 4 196 ++ [byteAt s 200]) := by
          simp [fieldsOf, encode, encodeBody, crcField, h0, h1, wireStart, store16_magicLed]
      _ = s := by
          rw [singleton_byteAt_last s 200 hl, bytesAt_append_drop, byteAt_cons_drop s 3 (by omega),
            byteAt_cons_drop s 2 (by omega), hjoin]
  | param =>
    have hl : s.length = 17 := hlen
    calc encode (PacketType.param.fieldsOf s)
        = byteAt s 0 :: byteAt s 1 :: byteAt s 2 :: byteAt s 3 ::
            (store32 (field32 s 4) ++ (store32 (field32 s 8) ++ (store32 (field32 s 12) ++ [byteAt s 16]))) := by
          simp [fieldsOf, encode, encodeBody, crcField, h0, h1, wireStart, store16_magicParam]
      _ = s := by
          rw [singleton_byteAt_last s 16 hl, store32_field32_append_drop s 12 (by omega),
            store32_field32_append_drop s 8 (by omega), store32_field32_append_drop s 4 (by omega),
            byteAt_cons_drop s 3 (by omega), byteAt_cons_drop s 2 (by omega), hjoin]
  | btn =>
    have hl : s.length = 7 := hlen
    calc encode (PacketType.btn.fieldsOf s)
        = byteAt s 0 :: byteAt s 1 :: byteAt s 2 :: byteAt s 3 :: byteAt s 4 :: byteAt s 5 :: [byteAt s 6] := by
          simp [fieldsOf, encode, encodeBody, crcField, h0, h1, wireStart, store16_magicBtn]
      _ = s := by
          rw [singleton_byteAt_last s 6 hl, byteAt_cons_drop s 5 (by omega), byteAt_cons_drop s 4 (by omega),
            byteAt_cons_drop s 3 (by omega), byteAt_cons_drop s 2 (by omega), hjoin]
  | boot => exact encode_of_decode_boot (decode_of_fits hlen hstart)

/-- R105: decoding the bytes of a packet under its own type gives it back. -/
theorem decode_encode (i : Instr) (h : i.wellFormed = true) : i.packet.decode (encode i) = .instr i := by
  rw [PacketType.decode_of_fits (encode_length i h) (encode_startFits i), fieldsOf_encode i h]

/-! ## The opcode table -/

theorem PacketType.length_inj {k l : PacketType} (h : k.length = l.length) : k = l := by
  revert h
  cases k <;> cases l <;> decide

/-- The rows' lengths are distinct, so a sequence that one row decodes is decoded by no row before it (R106). -/
theorem decodeAmong_eq_some {k : PacketType} {s : List Byte} {i : Instr} (h : k.decode s = .instr i) :
    ∀ {rows : List PacketType}, k ∈ rows → decodeAmong s rows = some i
  | l :: rows, hmem => by
    cases hl : l.decode s with
    | instr j =>
      obtain ⟨hlen, -, -⟩ := decode_eq_instr _ _ _ hl
      obtain ⟨hlen', -, -⟩ := decode_eq_instr _ _ _ h
      obtain rfl : k = l := PacketType.length_inj (hlen'.symm.trans hlen)
      simp [decodeAmong, h]
    | rejected =>
      have hne : k ≠ l := by rintro rfl; simp [h] at hl
      simpa [decodeAmong, hl] using decodeAmong_eq_some h (List.mem_of_ne_of_mem hne hmem)

theorem mem_packetTypes (k : PacketType) : k ∈ packetTypes := by cases k <;> decide

/-! ## The statements -/

/-- Settles O1: the encoding fits its own type's row (`decode_encode`), and no other row has its length. -/
theorem decodeEncodeAgree : Obligations.DecodeEncodeAgree := by
  intro i h
  have hdecode := decode_encode i h
  exact ⟨hdecode, decodeAmong_eq_some hdecode (mem_packetTypes i.packet)⟩

/-- Settles O2: what is decoded is read at the offsets of the type, which cover the whole sequence (`PacketType.encode_fieldsOf`). -/
theorem encodeDecodeAgree : Obligations.EncodeDecodeAgree := by
  intro k bytes i h
  obtain ⟨hlen, hstart, rfl⟩ := decode_eq_instr _ _ _ h
  exact ⟨k.fieldsOf_packet bytes, PacketType.fieldsOf_wellFormed hlen, PacketType.encode_fieldsOf hlen hstart⟩

/-- Settles O3, by cases on the type: each has its own length and first two bytes. -/
theorem decodedExactlyWhenLengthAndStartFit : Obligations.DecodedExactlyWhenLengthAndStartFit := by
  intro k bytes
  rw [k.decodes_iff, k.startFits_iff]
  cases k <;> exact length_and_start_iff ..

/-- Settles O4: the two accepted words are encodings of their packets (`decode_encode`); the two others are wrong in the order of the
magic's bytes and in length. -/
theorem writtenOutPacketsDecode : Obligations.WrittenOutPacketsDecode :=
  ⟨decode_encode (.btn 1 0 0 1 0x6C) rfl, decode_encode (.param 0xEE 0x00 0x7FC00001 0xFFFFFFFF 0x80000000 0x34) rfl,
    by decide, by decide⟩

/-- Settles O5: assembling and storing are inverse to each other, for both widths. -/
theorem fieldsAreLittleEndian : Obligations.FieldsAreLittleEndian := by
  refine ⟨fun b0 b1 => ⟨le16_toNat b0 b1, ?_⟩, fun v => ⟨rfl, ?_, le16_lo8_hi8 v⟩,
    fun b0 b1 b2 b3 => ⟨le32_toNat b0 b1 b2 b3, ?_⟩, fun w k hk => ?_, le32_byteOf32⟩
  · simp [store16]
  · exact BitVec.eq_of_toNat_eq (Nat.mod_mod _ _)
  · simp [store32, byteOf32_le32 b0 b1 b2 b3]
  · interval_cases k <;> rfl

end Sys2Proof
end

section
/-! The opcode table's words (`30_encoding.md` section 5, log entry 6): the packet that a word stands for is offered where the next step
fetches it, and that step decodes it again and runs its meaning. -/

namespace Sys2Proof.Machine

/-! ## The packet a table word is -/

/-- What a row reads from bytes filled with zeros is a packet of that row (R106). -/
theorem decodePadded_eq_some {s : List Byte} {k : PacketType} {i : Instr} :
    ∀ {rows : List PacketType}, decodePadded s rows = some (k, i) → k.decode (padTo k s) = .instr i
  | l :: rows, h => by
    cases hl : l.decode (padTo l s) with
    | instr j =>
      obtain ⟨rfl, rfl⟩ : l = k ∧ j = i := by simpa [decodePadded, hl] using h
      exact hl
    | rejected => exact decodePadded_eq_some (rows := rows) (by simpa [decodePadded, hl] using h)

/-- The bits of a packet are offered as its whole encoding, to the operation that expects its type. -/
theorem withFetchWord_of_decodeTableWord {nbits w : Nat} {i : Instr} (s : State) (h : decodeTableWord nbits w = some i) :
    i.wellFormed = true ∧ s.withFetchWord nbits w = s.offerPacket i.packet (encode i) := by
  obtain ⟨⟨k, j⟩, hrow, rfl⟩ := Option.map_eq_some_iff.mp h
  obtain ⟨hpacket, hwf, -⟩ := encodeDecodeAgree _ _ _ (decodePadded_eq_some hrow)
  exact ⟨hwf, by simp only [State.withFetchWord, hrow, hpacket]⟩

/-! ## Messages -/

theorem performDecode_encode {c : MsgChan} {i : Instr} (hwf : i.wellFormed = true) (hpacket : i.packet = c.packet)
    (s : State) : performDecode c (encode i) s = exec i s := by
  simp only [performDecode, ← hpacket, decode_encode i hwf]

/-- A decode request runs the decoder when its message is no longer than `MSG_MAX` (R55). -/
theorem perform_decode (c : MsgChan) {msg : List Byte} {s : State} (h : msg.length ≤ s.cfg.msgMax) :
    perform (c.decode msg) s = performDecode c msg s := by
  cases c <;> exact if_pos (decide_eq_true h)

/-- Every message packet is within `MSG_MAX`, which is at least 202 (R7). -/
theorem encode_length_le_msgMax {c : MsgChan} {i : Instr} (hwf : i.wellFormed = true) (hpacket : i.packet = c.packet)
    (cfg : Config) : (encode i).length ≤ cfg.msgMax := by
  have hlen : (encode i).length ≤ 202 := by
    rw [encode_length i hwf, hpacket]
    cases c <;> decide
  exact hlen.trans cfg.msgMax_ge

theorem step_request_decode_encode {c : MsgChan} {i : Instr} (hwf : i.wellFormed = true) (hpacket : i.packet = c.packet)
    (s : State) : step (s.request (c.decode (encode i))) = exec i s := by
  rw [step_request, perform_decode c (encode_length_le_msgMax hwf hpacket s.cfg), performDecode_encode hwf hpacket]

/-! ## The serial frame -/

theorem Block.qPopN_of_append {b : Block} {bytes q : List Byte} {n : Nat} (hq : b.rxq = bytes ++ q)
    (hlen : bytes.length = n) : b.qPopN n = (bytes, { b with rxq := q }) := by
  simp [Block.qPopN, hq, ← hlen]

/-- The search from SEARCHING stops at once behind a leading sync pair: the budget is at least 1, and the `55` is free (R144, R146). -/
theorem searchPhase_of_leading_pair (cfg : Config) {b : Block} {q : List Byte} (hfs : b.fs = .searching)
    (hflag : b.haveSync0 = false) (hq : b.rxq = sync0 :: sync1 :: q) :
    searchPhase cfg b = ({ b with rxq := q, fs := .reading, haveSync0 := false }, .found) := by
  have hbudget : ¬ cfg.searchBudget ≤ 0 := Nat.not_le_of_lt cfg.searchBudget_pos
  simp [searchPhase, search, hfs, hflag, hq, hbudget]

/-- With the 198 bytes behind the pair in the queue, the candidate frame is fetched and executed in the same operation (R143, R145). -/
theorem performRecvLeds_of_payload {s : State} {b : Block} {payload q : List Byte}
    (hsearch : searchPhase s.cfg s.block = (b, .found)) (hq : b.rxq = payload ++ q) (hlen : payload.length = readLen) :
    performRecvLeds s =
      exec (PacketType.leds.fieldsOf (candidateFrame payload)) { s with block := { b with rxq := q } } := by
  have hfull : ¬ b.qLen < readLen := by simp [hq, hlen]
  simp only [performRecvLeds, hsearch, if_neg hfull, Block.qPopN_of_append hq hlen]

theorem step_offerPacket_candidateFrame {payload : List Byte} (hlen : payload.length = readLen) (s : State) :
    step (s.offerPacket .leds (candidateFrame payload)) =
      exec (PacketType.leds.fieldsOf (candidateFrame payload))
        { s with block := { s.block with fs := .reading, haveSync0 := false } } := by
  calc step (s.offerPacket .leds (candidateFrame payload))
      = performRecvLeds { s with
          block := { s.block with rxq := candidateFrame payload ++ s.block.rxq, fs := .searching, haveSync0 := false } } :=
        rfl
    _ = _ := performRecvLeds_of_payload (searchPhase_of_leading_pair _ rfl rfl rfl) rfl hlen

theorem step_offerPacket_leds {pixels : List Byte} {frameCtr crc : Byte}
    (hwf : (Instr.leds pixels frameCtr crc).wellFormed = true) (s : State) :
    step (s.offerPacket .leds (encode (.leds pixels frameCtr crc))) =
      exec (.leds pixels frameCtr crc) { s with block := { s.block with fs := .reading, haveSync0 := false } } := by
  have hframe : encode (.leds pixels frameCtr crc) = candidateFrame (pixels ++ [frameCtr] ++ [crc]) := rfl
  have hlen : (pixels ++ [frameCtr] ++ [crc]).length = readLen := Nat.add_right_cancel (m := 2) (encode_length _ hwf)
  have hfields : PacketType.leds.fieldsOf (encode (.leds pixels frameCtr crc)) = _ := fieldsOf_encode _ hwf
  rw [hframe] at hfields ⊢
  rw [step_offerPacket_candidateFrame hlen, hfields]

/-! ## The bootstrap -/

/-- An empty accumulation takes a whole packet at once from the front of the queue (R223). -/
theorem accumulate_of_whole_packet {b : Block} {bytes q : List Byte} (hfill : b.bootFill = 0)
    (hbuf : b.bootBuf.length = bootLen) (hq : b.rxq = bytes ++ q) (hlen : bytes.length = bootLen) :
    accumulate b = { b with rxq := q, bootBuf := bytes, bootFill := bootLen } := by
  have htaken : min b.qLen (bootLen - 0) = bootLen := by simp [hq, hlen]
  have hstore : storeAt b.bootBuf 0 bytes = bytes := by simp [storeAt, hlen, ← hbuf]
  simp only [accumulate, hfill, htaken, Block.qPopN_of_append hq hlen, hstore, Nat.zero_add]

/-- A poll that accumulates the last byte of a packet with the right sync bytes executes it (R223, R224). -/
theorem performBootPoll_of_whole_packet {s : State} {b : Block} {i : Instr} (hwait : s.block.bootState = .wait)
    (hacc : accumulate s.block = b) (hfull : b.bootFill = bootLen) (hdecode : PacketType.boot.decode b.bootBuf = .instr i) :
    performBootPoll s = exec i { s with block := b } := by
  simp [performBootPoll, hwait, hacc, hfull, hdecode]

theorem step_offerPacket_boot {i : Instr} (hwf : i.wellFormed = true) (hpacket : i.packet = .boot) {s : State}
    (hbuf : s.block.bootBuf.length = bootLen) :
    step (s.offerPacket .boot (encode i)) =
      exec i { s with
        block := { s.block with bootBuf := encode i, bootFill := bootLen, bootState := .wait } } := by
  have hlen := encode_length i hwf
  have hdecode := decode_encode i hwf
  rw [hpacket] at hlen hdecode
  exact performBootPoll_of_whole_packet
    (s := { s with
      block := { s.block with rxq := encode i ++ s.block.rxq, bootFill := 0, bootState := .wait } })
    rfl (accumulate_of_whole_packet rfl hbuf rfl hlen) rfl hdecode

/-! ## The statement -/

/-- Settles O6, by cases on the packet: a serial frame and a bootstrap are fetched from the queue, a message is the operand. -/
theorem fetchWordRunsNext : Obligations.FetchWordRunsNext := by
  intro s nbits w i hbuf hword
  obtain ⟨hwf, hoffer⟩ := withFetchWord_of_decodeTableWord s hword
  rw [hoffer]
  cases i with
  | leds => exact step_offerPacket_leds hwf s
  | ledd => exact step_request_decode_encode (c := .ledd) hwf rfl s
  | param => exact step_request_decode_encode (c := .param) hwf rfl s
  | btn => exact step_request_decode_encode (c := .btn) hwf rfl s
  | boot => exact step_offerPacket_boot hwf rfl hbuf

end Sys2Proof.Machine
end

section
/-! The CRC-8 (`40_crc8.md`). One shift of the register is a linear and invertible map; one input byte is eight shifts. From this follow the
laws of section 3: the CRC is linear, the check of a packet is "CRC zero" and so depends on the error pattern alone. -/

namespace Sys2Proof.Machine

/-! ## One shift of the register -/

/-- One round of R121's loop: a shift, the polynomial XORed in when the bit shifted out is 1. -/
def crcShift (r : Byte) : Byte := if r.getLsbD 7 then (r <<< 1) ^^^ 0x07#8 else r <<< 1

theorem crcShifts_eq_iterate (n : Nat) (r : Byte) : crcShifts n r = crcShift^[n] r := by
  induction n generalizing r with
  | zero => rfl
  | succ n ih => rw [crcShifts, ih, ih, ← apply_ite, Function.iterate_succ_apply]; rfl

theorem crcShift_xor (a b : Byte) : crcShift (a ^^^ b) = crcShift a ^^^ crcShift b := by
  simp only [crcShift, BitVec.getLsbD_xor, BitVec.shiftLeft_xor_distrib]
  cases a.getLsbD 7 <;> cases b.getLsbD 7
  case false.false => rfl
  case false.true => exact BitVec.xor_assoc ..
  case true.false =>
    change (a <<< 1 ^^^ b <<< 1) ^^^ 0x07#8 = (a <<< 1 ^^^ 0x07#8) ^^^ b <<< 1
    ac_rfl
  case true.true =>
    calc a <<< 1 ^^^ b <<< 1
        = (a <<< 1 ^^^ b <<< 1) ^^^ (0x07#8 ^^^ 0x07#8) := BitVec.xor_zero.symm
      _ = (a <<< 1 ^^^ 0x07#8) ^^^ (b <<< 1 ^^^ 0x07#8) := by ac_rfl

/-- The polynomial has a constant term, so a shift loses nothing. -/
theorem crcShift_eq_zero : ∀ r : Byte, crcShift r = 0 → r = 0 := by decide

theorem crcShift_injective : Function.Injective crcShift := by
  intro a b h
  have hzero : crcShift (a ^^^ b) = 0 := by
    rw [crcShift_xor, h]
    exact BitVec.xor_self
  exact BitVec.xor_eq_zero_iff.mp (crcShift_eq_zero _ hzero)

theorem crcShift_iterate_zero (n : Nat) : crcShift^[n] 0 = 0 := Function.iterate_fixed (by decide) n

theorem crcShift_iterate_xor (n : Nat) (a b : Byte) : crcShift^[n] (a ^^^ b) = crcShift^[n] a ^^^ crcShift^[n] b := by
  induction n generalizing a b with
  | zero => rfl
  | succ n ih => simp only [Function.iterate_succ_apply, crcShift_xor, ih]

theorem crcShift_iterate_eq_zero_iff (n : Nat) (r : Byte) : crcShift^[n] r = 0 ↔ r = 0 := by
  constructor
  · exact fun h => crcShift_injective.iterate n (h.trans (crcShift_iterate_zero n).symm)
  · rintro rfl
    exact crcShift_iterate_zero n

/-! ## One input byte -/

theorem crc8Step_eq_iterate (c b : Byte) : crc8Step c b = crcShift^[8] (c ^^^ b) := crcShifts_eq_iterate 8 _

theorem crc8Step_xor (c d a b : Byte) : crc8Step (c ^^^ d) (a ^^^ b) = crc8Step c a ^^^ crc8Step d b := by
  have hswap : c ^^^ d ^^^ (a ^^^ b) = (c ^^^ a) ^^^ (d ^^^ b) := by ac_rfl
  simp only [crc8Step_eq_iterate, hswap, crcShift_iterate_xor]

theorem crc8Step_eq_zero_iff (c b : Byte) : crc8Step c b = 0 ↔ c = b := by
  rw [crc8Step_eq_iterate, crcShift_iterate_eq_zero_iff]
  exact BitVec.xor_eq_zero_iff

/-! ## A byte sequence -/

theorem crc8_eq_foldl (s : List Byte) : crc8 s = s.foldl crc8Step 0 := BitVec.xor_zero

theorem crc8_append_singleton (s : List Byte) (b : Byte) : crc8 (s ++ [b]) = crc8Step (crc8 s) b := by
  simp only [crc8_eq_foldl, List.foldl_append, List.foldl_cons, List.foldl_nil]

/-- R124 with any two register values to start from. -/
theorem foldl_crc8Step_xor (a b : List Byte) (c d : Byte) (h : a.length = b.length) :
    (xorBytes a b).foldl crc8Step (c ^^^ d) = a.foldl crc8Step c ^^^ b.foldl crc8Step d := by
  induction a generalizing b c d with
  | nil =>
    obtain rfl := List.eq_nil_of_length_eq_zero h.symm
    rfl
  | cons x a ih =>
    obtain ⟨y, b, rfl⟩ := List.exists_cons_of_length_eq_add_one h.symm
    have htail := ih b (crc8Step c x) (crc8Step d y) (Nat.succ.inj h)
    rwa [← crc8Step_xor] at htail

theorem crc8_xorBytes (a b : List Byte) (h : a.length = b.length) : crc8 (xorBytes a b) = crc8 a ^^^ crc8 b := by
  rw [crc8_eq_foldl, crc8_eq_foldl, crc8_eq_foldl]
  exact foldl_crc8Step_xor a b 0 0 h

theorem foldl_crc8Step_replicate_zero (n : Nat) (c : Byte) :
    (List.replicate n 0).foldl crc8Step c = crcShift^[8 * n] c := by
  induction n generalizing c with
  | zero => rfl
  | succ n ih =>
    rw [List.replicate_succ, List.foldl_cons, ih, crc8Step_eq_iterate, ← Function.iterate_add_apply, Nat.mul_succ]
    exact congrArg _ BitVec.xor_zero

/-! ## The check of a packet -/

/-- R125: the check is that the CRC of the whole packet is zero. -/
theorem crcMatches_iff (packet : List Byte) : crcMatches packet = true ↔ crc8 packet = 0 := by
  induction packet using List.reverseRecOn with
  | nil => decide
  | append_singleton body crc _ =>
    rw [crcMatches_append, beq_iff_eq, crc8_append_singleton, crc8Step_eq_zero_iff]

theorem crcMatches_eq_false_iff (packet : List Byte) : crcMatches packet = false ↔ crc8 packet ≠ 0 := by
  rw [Ne, ← crcMatches_iff, Bool.not_eq_true]

/-- R124, the consequence: a corrupted packet passes exactly when its error pattern alone has the CRC zero. -/
theorem crc8_xorBytes_of_matches {packet e : List Byte} (hlen : packet.length = e.length) (h : crcMatches packet = true) :
    crc8 (xorBytes packet e) = crc8 e := by
  rw [crc8_xorBytes packet e hlen, (crcMatches_iff packet).mp h]
  exact BitVec.zero_xor

/-! ## The printed table -/

theorem crcTable_eq_iterate : ∀ i : Byte, crcTable i = crcShift^[8] i := by decide

theorem crc8Step_eq_crcTable (c b : Byte) : crc8Step c b = crcTable (c ^^^ b) := by
  rw [crc8Step_eq_iterate, crcTable_eq_iterate]

theorem crcTable_bijective : Function.Bijective crcTable := by
  have hinj : Function.Injective crcTable := by
    rw [funext crcTable_eq_iterate]
    exact crcShift_injective.iterate 8
  exact Finite.injective_iff_bijective.mp hinj

/-! ## The laws -/

/-- Settles O7: `crc8Step` is eight rounds of `crcShift`, which is the statement's round. -/
theorem crcStepShiftsEightTimes : Obligations.CrcStepShiftsEightTimes := crc8Step_eq_iterate

/-- Settles O8: the table is eight shifts of its index, and an input byte is XORed into the register before eight shifts. -/
theorem crcTableForm : Obligations.CrcTableForm := by
  refine ⟨fun i => ?_, crc8Step_eq_crcTable, fun bytes => ?_, crcTable_bijective, by decide⟩
  · rw [crc8Step_eq_crcTable]
    exact congrArg _ BitVec.zero_xor.symm
  · rw [crc8_eq_foldl, funext₂ crc8Step_eq_crcTable]

/-- Settles O9, from the linearity of one step (`crc8Step_xor`). -/
theorem crcIsLinear : Obligations.CrcIsLinear := by
  refine ⟨fun c b => ?_, fun c d => crc8Step_xor c d 0 0, crc8_xorBytes, fun packet e _ hlen hmatch => ?_⟩
  · rw [crc8Step_eq_iterate, crc8Step_eq_iterate]
    exact congrArg _ BitVec.xor_zero.symm
  · rw [crcMatches_iff, crc8_xorBytes_of_matches hlen hmatch, ← crcMatches_iff, crcMatches, beq_iff_eq]

/-- Settles O10: the two forms of the check agree (`crcMatches_iff`), and a sealed packet passes it. -/
theorem crcZeroResidue : Obligations.CrcZeroResidue :=
  ⟨fun bytes => (crcMatches_iff _).mp (crcMatches_sealPacket bytes), crcMatches_iff⟩

/-- Settles O11: zero bytes only shift the register, and shifts leave a register of zero as it is. -/
theorem crcOfZeros : Obligations.CrcOfZeros := by
  have hzeros (n : Nat) : (List.replicate n 0).foldl crc8Step 0 = 0 := by
    rw [foldl_crc8Step_replicate_zero, crcShift_iterate_zero]
  refine ⟨rfl, fun n => ?_, fun n bytes => ?_, fun bytes => crc8_append_singleton bytes 0, by decide, by decide⟩
  · exact (crc8_eq_foldl _).trans (hzeros n)
  · rw [crc8_eq_foldl, List.foldl_append, hzeros, crc8_eq_foldl]

/-- Settles O16: an operand within `MSG_MAX` is a request that can be expressed, and performing it only returns the CRC. -/
theorem crc8OperationIsPure : Obligations.Crc8OperationIsPure := by
  intro s bytes hlen
  have hexpressible : (Operation.crc8 bytes).expressible s.cfg = true := decide_eq_true hlen
  calc step (s.request (.crc8 bytes))
      = performOperation (.crc8 bytes) s := if_pos hexpressible
    _ = _ := by rw [performOperation, performCrc8, State.complete, crc8_eq_foldl]

end Sys2Proof.Machine
end

section
/-! What the CRC-8 detects (`40_crc8.md` R126). The register is also a function of the sequence's bits taken one at a time in wire order, which
is how the four kinds of error are described. -/

namespace Sys2Proof.Machine

/-! ## One flipped bit -/

theorem flipBit_length (s : List Byte) (p : Nat) : (flipBit s p).length = s.length := List.length_modify ..

theorem flipBit_cons_of_lt (b : Byte) (s : List Byte) {p : Nat} (h : p < 8) :
    flipBit (b :: s) p = (b ^^^ (0x80#8 >>> p)) :: s := by
  rw [flipBit, Nat.div_eq_of_lt h, Nat.mod_eq_of_lt h, List.modify_zero_cons]

theorem flipBit_cons_add (b : Byte) (s : List Byte) (p : Nat) : flipBit (b :: s) (p + 8) = b :: flipBit s p := by
  rw [flipBit, Nat.add_div_right p (by decide), Nat.add_mod_right, List.modify_succ_cons, flipBit]

/-- A difference in the register is shifted along, whatever the bytes are. -/
theorem foldl_crc8Step_xor_register (s : List Byte) (c d : Byte) :
    s.foldl crc8Step (c ^^^ d) = s.foldl crc8Step c ^^^ crcShift^[8 * s.length] d := by
  induction s generalizing c d with
  | nil => rfl
  | cons b s ih =>
    have hstep : crc8Step (c ^^^ d) b = crc8Step c b ^^^ crcShift^[8] d := by
      rw [crc8Step_eq_iterate, crc8Step_eq_iterate, ← crcShift_iterate_xor]
      exact congrArg _ (by ac_rfl)
    rw [List.foldl_cons, List.foldl_cons, hstep, ih, ← Function.iterate_add_apply, List.length_cons, Nat.mul_succ]

/-- A single set bit of an input byte is the byte's first bit some shifts later. -/
theorem crcShift_iterate_mask : ∀ p < 8, crcShift^[8] (0x80#8 >>> p) = crcShift^[8 - p] 0x80#8 := by decide

theorem foldl_crc8Step_flipBit (s : List Byte) (p : Nat) (c : Byte) (h : p < 8 * s.length) :
    (flipBit s p).foldl crc8Step c = s.foldl crc8Step c ^^^ crcShift^[8 * s.length - p] 0x80#8 := by
  induction s generalizing p c with
  | nil => exact absurd h (Nat.not_lt_zero p)
  | cons b s ih =>
    rw [List.length_cons] at h ⊢
    obtain hp | ⟨q, rfl⟩ : p < 8 ∨ ∃ q, p = q + 8 := by
      by_cases hp : p < 8
      · exact .inl hp
      · exact .inr ⟨p - 8, by omega⟩
    · have hstep : crc8Step c (b ^^^ (0x80#8 >>> p)) = crc8Step c b ^^^ crcShift^[8 - p] 0x80#8 := by
        rw [crc8Step_eq_iterate, crc8Step_eq_iterate, ← crcShift_iterate_mask p hp, ← crcShift_iterate_xor,
          BitVec.xor_assoc]
      have hcount : 8 * (s.length + 1) - p = 8 * s.length + (8 - p) := by omega
      rw [flipBit_cons_of_lt b s hp, List.foldl_cons, List.foldl_cons, hstep, foldl_crc8Step_xor_register, hcount,
        Function.iterate_add_apply]
    · have hcount : 8 * (s.length + 1) - (q + 8) = 8 * s.length - q := by omega
      rw [flipBit_cons_add, List.foldl_cons, List.foldl_cons, ih q _ (by omega), hcount]

/-- A flipped bit changes the CRC by what the bit's position alone says. -/
theorem crc8_flipBit (s : List Byte) (p : Nat) (h : p < 8 * s.length) :
    crc8 (flipBit s p) = crc8 s ^^^ crcShift^[8 * s.length - p] 0x80#8 := by
  rw [crc8_eq_foldl, crc8_eq_foldl, foldl_crc8Step_flipBit s p 0 h]

theorem crc8_flipBit_of_matches {packet : List Byte} {p : Nat} (hmatch : crcMatches packet = true)
    (hp : p < 8 * packet.length) : crc8 (flipBit packet p) = crcShift^[8 * packet.length - p] 0x80#8 := by
  rw [crc8_flipBit packet p hp, (crcMatches_iff packet).mp hmatch]
  exact BitVec.zero_xor

/-- The polynomial divides `x ^ 127 - 1`: the order of the shift. -/
theorem crcShift_iterate_127 : crcShift^[127] 0x80#8 = 0x80#8 := by decide +kernel

/-! ## The register bit by bit -/

/-- The bits of a byte sequence in wire order. -/
def wireBits (s : List Byte) : List Bool := (List.range (8 * s.length)).map (wireBit s)

/-- The register after one more bit: the bit is XORed into the bit that the shift takes out. -/
def crcBit (r : Byte) (x : Bool) : Byte := crcShift (r ^^^ if x then 0x80#8 else 0#8)

theorem wireBit_cons_add (b : Byte) (s : List Byte) (p : Nat) : wireBit (b :: s) (8 + p) = wireBit s p := by
  rw [wireBit, wireBit, Nat.add_div_left p (by decide), Nat.add_mod_left, byteAt_cons_succ]

theorem wireBits_cons (b : Byte) (s : List Byte) : wireBits (b :: s) = wireBits [b] ++ wireBits s := by
  have hcount : 8 * (b :: s).length = 8 + 8 * s.length := by rw [List.length_cons]; omega
  rw [wireBits, hcount, List.range_add, List.map_append, List.map_map]
  exact congrArg _ (List.map_congr_left fun p _ => wireBit_cons_add b s p)

theorem wireBit_of_le (s : List Byte) {p : Nat} (h : 8 * s.length ≤ p) : wireBit s p = false := by
  have hbyte : byteAt s (p / 8) = 0 := List.getD_eq_default _ _ (by omega)
  rw [wireBit, hbyte]
  exact BitVec.getLsbD_zero

theorem setBits_eq_count (s : List Byte) : setBits s = (wireBits s).count true := by
  rw [setBits, wireBits, List.count, List.countP_map]
  exact List.countP_congr fun p _ => by simp

theorem crcBit_false (r : Byte) : crcBit r false = crcShift r := congrArg crcShift BitVec.xor_zero

theorem crcBit_eq_xor (c : Byte) (x : Bool) : crcBit c x = crcShift c ^^^ crcBit 0 x := by
  rw [crcBit, crcBit, ← crcShift_xor]
  exact congrArg (fun y => crcShift (c ^^^ y)) BitVec.zero_xor.symm

theorem foldl_crcBit (l : List Bool) (c : Byte) : l.foldl crcBit c = crcShift^[l.length] c ^^^ l.foldl crcBit 0 := by
  induction l generalizing c with
  | nil => exact BitVec.xor_zero.symm
  | cons x l ih =>
    rw [List.foldl_cons, List.foldl_cons, ih, ih (crcBit 0 x), crcBit_eq_xor c x, crcShift_iterate_xor, List.length_cons,
      Function.iterate_succ_apply, BitVec.xor_assoc]

theorem foldl_crcBit_replicate_false (n : Nat) (c : Byte) :
    (List.replicate n false).foldl crcBit c = crcShift^[n] c := by
  induction n generalizing c with
  | zero => rfl
  | succ n ih => rw [List.replicate_succ, List.foldl_cons, ih, crcBit_false, Function.iterate_succ_apply]

theorem foldl_crcBit_byte : ∀ b : Byte, (wireBits [b]).foldl crcBit 0 = crcShift^[8] b := by
  decide +kernel

theorem crc8Step_eq_foldl_crcBit (c b : Byte) : crc8Step c b = (wireBits [b]).foldl crcBit c := by
  rw [crc8Step_eq_iterate, foldl_crcBit, foldl_crcBit_byte, crcShift_iterate_xor]
  rfl

theorem foldl_crc8Step_eq_foldl_crcBit (s : List Byte) (c : Byte) :
    s.foldl crc8Step c = (wireBits s).foldl crcBit c := by
  induction s generalizing c with
  | nil => rfl
  | cons b s ih => rw [wireBits_cons, List.foldl_append, ← crc8Step_eq_foldl_crcBit, List.foldl_cons, ih]

theorem crc8_eq_foldl_crcBit (s : List Byte) : crc8 s = (wireBits s).foldl crcBit 0 :=
  (crc8_eq_foldl s).trans (foldl_crc8Step_eq_foldl_crcBit s 0)

/-! ## Odd errors -/

/-- The polynomial has an even number of terms, so a shift keeps the parity of the register. -/
theorem setBits_crcBit_parity : ∀ (r : Byte) (x : Bool), setBits [crcBit r x] % 2 = (setBits [r] + x.toNat) % 2 := by
  decide +kernel

theorem setBits_foldl_crcBit_parity (l : List Bool) (c : Byte) :
    setBits [l.foldl crcBit c] % 2 = (setBits [c] + l.count true) % 2 := by
  induction l generalizing c with
  | nil => rfl
  | cons x l ih =>
    have hstep := setBits_crcBit_parity c x
    have hcount : (x :: l).count true = l.count true + x.toNat := by cases x <;> simp
    rw [List.foldl_cons, ih, hcount]
    omega

/-- An empty register has even parity. -/
theorem crc8_ne_zero_of_odd {e : List Byte} (h : setBits e % 2 = 1) : crc8 e ≠ 0 := by
  intro hzero
  have hparity := setBits_foldl_crcBit_parity (wireBits e) 0
  rw [← crc8_eq_foldl_crcBit, hzero, ← setBits_eq_count] at hparity
  have hempty : setBits [0] = 0 := by decide
  omega

/-! ## Bursts -/

/-- Eight bits from an empty register are a byte shifted eight times, so they leave it empty only if all are 0. -/
theorem foldl_crcBit_eight_eq_zero : ∀ b0 b1 b2 b3 b4 b5 b6 b7 : Bool,
    [b0, b1, b2, b3, b4, b5, b6, b7].foldl crcBit 0 = 0 → true ∉ [b0, b1, b2, b3, b4, b5, b6, b7] := by decide +kernel

theorem map_eq_replicate_false {w : Nat → Bool} {l : List Nat} (h : ∀ i ∈ l, w i = false) :
    l.map w = List.replicate l.length false := (List.map_congr_left h).trans (List.map_const' ..)

/-- The bits of a burst: nothing before it, the eight bits it lies in, and nothing after them; past the end of the sequence `wireBit` reads
zeros, so the eight bits may reach over it. -/
theorem wireBits_burst {e : List Byte} {p : Nat} (hburst : ∀ q, wireBit e q = true → p ≤ q ∧ q < p + 8) :
    wireBits e ++ List.replicate (p + 8) false =
      List.replicate p false ++ (List.range 8).map (fun i => wireBit e (p + i)) ++
        List.replicate (8 * e.length) false := by
  have hoff (q : Nat) (hq : q < p ∨ p + 8 ≤ q) : wireBit e q = false := by
    by_contra hbit
    have := hburst q (by simpa using hbit)
    omega
  have hbefore := map_eq_replicate_false (l := List.range p) fun i hi => hoff i (.inl (List.mem_range.mp hi))
  have hafter := map_eq_replicate_false (w := fun i => wireBit e (p + 8 + i)) (l := List.range (8 * e.length))
    fun i _ => hoff _ (.inr (Nat.le_add_right ..))
  have hpast := map_eq_replicate_false (w := fun i => wireBit e (8 * e.length + i)) (l := List.range (p + 8))
    fun i _ => wireBit_of_le e (Nat.le_add_right ..)
  rw [List.length_range] at hbefore hafter hpast
  calc wireBits e ++ List.replicate (p + 8) false
      = (List.range (8 * e.length + (p + 8))).map (wireBit e) := by
        rw [List.range_add, List.map_append, List.map_map, ← hpast]
        rfl
    _ = (List.range (p + 8 + 8 * e.length)).map (wireBit e) := by rw [Nat.add_comm]
    _ = _ := by
        rw [List.range_add, List.range_add, List.map_append, List.map_append, List.map_map, List.map_map, ← hbefore,
          ← hafter]
        rfl

theorem crc8_ne_zero_of_burst {e : List Byte} {p : Nat} (hset : setBits e ≠ 0)
    (hburst : ∀ q, wireBit e q = true → p ≤ q ∧ q < p + 8) : crc8 e ≠ 0 := by
  intro hzero
  have hbits := congrArg (List.foldl crcBit 0) (wireBits_burst hburst)
  rw [List.foldl_append, List.foldl_append, List.foldl_append, ← crc8_eq_foldl_crcBit, hzero] at hbits
  simp only [foldl_crcBit_replicate_false, crcShift_iterate_zero] at hbits
  have hwindow := foldl_crcBit_eight_eq_zero _ _ _ _ _ _ _ _ ((crcShift_iterate_eq_zero_iff _ _).mp hbits.symm)
  obtain ⟨q, -, hq⟩ := List.countP_pos_iff.mp (Nat.pos_of_ne_zero hset)
  obtain ⟨hle, hlt⟩ := hburst q hq
  have hmem : true ∈ (List.range 8).map (fun i => wireBit e (p + i)) :=
    List.mem_map.mpr ⟨q - p, List.mem_range.mpr (by omega), by rwa [Nat.add_sub_cancel' hle]⟩
  exact hwindow hmem

/-! ## The laws -/

/-- Settles O12: what one flipped bit adds to the CRC is a shifted non-zero register. -/
theorem crcDetectsEverySingleBit : Obligations.CrcDetectsEverySingleBit := by
  intro packet p hmatch hp
  rw [crcMatches_eq_false_iff, crc8_flipBit_of_matches hmatch hp, Ne, crcShift_iterate_eq_zero_iff]
  decide

/-- Settles O13: a burst is eight bits entering an empty register, followed by shifts (`crc8_ne_zero_of_burst`). -/
theorem crcDetectsShortBursts : Obligations.CrcDetectsShortBursts := by
  intro packet e p hmatch hlen hset hburst
  rw [crcMatches_eq_false_iff, crc8_xorBytes_of_matches hlen hmatch]
  exact crc8_ne_zero_of_burst hset hburst

/-- Settles O14: the parity of the CRC is the parity of the error. -/
theorem crcDetectsOddErrors : Obligations.CrcDetectsOddErrors := by
  intro packet e hmatch hlen hodd
  rw [crcMatches_eq_false_iff, crc8_xorBytes_of_matches hlen hmatch]
  exact crc8_ne_zero_of_odd hodd

/-- Settles O15: 127 shifts bring the register back, so the two bits add the same to the CRC. -/
theorem crcMissesPairs127Apart : Obligations.CrcMissesPairs127Apart := by
  intro packet p hmatch hp
  have hcount : 8 * packet.length - p = (8 * packet.length - (p + 127)) + 127 := by omega
  rw [crcMatches_iff, crc8_flipBit _ _ (by rwa [flipBit_length]), flipBit_length,
    crc8_flipBit_of_matches hmatch (by omega), hcount, Function.iterate_add_apply, crcShift_iterate_127]
  exact BitVec.xor_self

end Sys2Proof.Machine
end

section
/-! A packet with one flipped bit (`40_crc8.md` R126 (a), `90_conflicts.md` C7): where the bit lies in the first two bytes the packet is not
found or not recognised; elsewhere it is fetched and decoded, and its CRC check fails. -/

namespace Sys2Proof.Machine

/-! ## The bytes of the flipped packet -/

theorem byteAt_flipBit_of_ne (s : List Byte) {p j : Nat} (h : p / 8 ≠ j) : byteAt (flipBit s p) j = byteAt s j := by
  simp [byteAt, flipBit, List.getElem?_modify_ne _ _ h]

theorem byteAt_flipBit_ne_self (s : List Byte) {p j : Nat} (hp : p < 8 * s.length) (hj : p / 8 = j) :
    byteAt (flipBit s p) j ≠ byteAt s j := by
  subst hj
  have hmask : ∀ k < 8, 0x80#8 >>> k ≠ 0#8 := by decide
  have hbyte : p / 8 < s.length := by omega
  have hflipped : byteAt (flipBit s p) (p / 8) = byteAt s (p / 8) ^^^ (0x80#8 >>> (p % 8)) := by
    simp [byteAt, flipBit, hbyte]
  rw [hflipped]
  intro hsame
  exact hmask (p % 8) (Nat.mod_lt p (by decide)) ((BitVec.xor_right_inj _).mp (hsame.trans BitVec.xor_zero.symm))

/-- Flipping a bit of the first two bytes, and no other, spoils the packet's start. -/
theorem startFits_flipBit_encode (i : Instr) {p : Nat} (hp : p < 8 * (encode i).length) :
    i.packet.startFits (byteAt (flipBit (encode i) p) 0) (byteAt (flipBit (encode i) p) 1) = true ↔ 16 ≤ p := by
  obtain ⟨h0, h1⟩ := (i.packet.startFits_iff _ _).mp (encode_startFits i)
  rw [i.packet.startFits_iff, ← h0, ← h1]
  constructor
  · rintro ⟨hsame0, hsame1⟩
    by_contra hlt
    obtain hj | hj : p / 8 = 0 ∨ p / 8 = 1 := by omega
    · exact byteAt_flipBit_ne_self _ hp hj hsame0
    · exact byteAt_flipBit_ne_self _ hp hj hsame1
  · intro hle
    exact ⟨byteAt_flipBit_of_ne _ (by omega), byteAt_flipBit_of_ne _ (by omega)⟩

theorem flipBit_encode_length {i : Instr} (hwf : i.wellFormed = true) (p : Nat) :
    (flipBit (encode i) p).length = i.packet.length := (flipBit_length _ p).trans (encode_length i hwf)

/-- A bit of the first two bytes is a bit of the packet. -/
theorem start_lt_encode_length {i : Instr} (hwf : i.wellFormed = true) {p : Nat} (hp : p < 16) : p < 8 * (encode i).length := by
  have hlen : 2 ≤ i.packet.length := by cases i.packet <;> decide
  rw [encode_length i hwf]
  omega

theorem decode_flipBit_start {i : Instr} (hwf : i.wellFormed = true) {p : Nat} (hp : p < 16) :
    i.packet.decode (flipBit (encode i) p) = .rejected .wrongStart := by
  have hstart := mt (startFits_flipBit_encode i (start_lt_encode_length hwf hp)).mp (Nat.not_le_of_lt hp)
  simp only [PacketType.decode, flipBit_encode_length hwf p, ne_eq, not_true_eq_false, if_false, hstart]
  rfl

theorem decode_flipBit_rest {i : Instr} (hwf : i.wellFormed = true) {p : Nat} (hp : p < 8 * (encode i).length)
    (hrest : 16 ≤ p) :
    i.packet.decode (flipBit (encode i) p) = .instr (i.packet.fieldsOf (flipBit (encode i) p)) :=
  PacketType.decode_of_fits (flipBit_encode_length hwf p) ((startFits_flipBit_encode i hp).mpr hrest)

/-! ## The meaning of a packet whose CRC check fails -/

/-- How each type of packet reports a failed CRC check (R147, R174, R224). -/
def State.raiseCrcMismatch (s : State) : PacketType → State
  | .leds => s.raise { s.block with fs := .searching } (.frameCorrupt .leds)
  | .ledd => s.raise s.block (.frameCorrupt .ledd)
  | .param => s.raise s.block (.frameCorrupt .param)
  | .btn => s.raise s.block (.frameCorrupt .btn)
  | .boot => s.raise s.block .bootstrapInvalidCrc

theorem State.raiseCrcMismatch_message (s : State) (c : MsgChan) :
    s.raiseCrcMismatch c.packet = s.raise s.block (.frameCorrupt c.toChan) := by
  cases c <;> rfl

theorem exec_of_crc_mismatch {i : Instr} (h : crcMatches (encode i) = false) (s : State) :
    exec i s = .next (s.raiseCrcMismatch i.packet) := by
  have hcrc : ¬ crcMatches (encode i) = true := Bool.not_eq_true _ ▸ h
  cases i <;> exact if_neg hcrc

/-- A packet flipped after its first two bytes is executed as a packet of its type, and fails its CRC check (R126 (a)). -/
theorem exec_flipBit_rest {i : Instr} (hwf : i.wellFormed = true) (hmatch : crcMatches (encode i) = true) {p : Nat}
    (hp : p < 8 * (encode i).length) (hrest : 16 ≤ p) (s : State) :
    exec (i.packet.fieldsOf (flipBit (encode i) p)) s = .next (s.raiseCrcMismatch i.packet) := by
  have hencode := PacketType.encode_fieldsOf (flipBit_encode_length hwf p) ((startFits_flipBit_encode i hp).mpr hrest)
  have hcrc := crcDetectsEverySingleBit _ p hmatch hp
  rw [← hencode] at hcrc
  rw [exec_of_crc_mismatch hcrc, PacketType.fieldsOf_packet]

/-! ## Messages -/

/-- A decoder answers a flipped message by the first check it fails: magic, or CRC. -/
theorem performs_decode_flipBit (s : State) (c : MsgChan) (i : Instr) (p : Nat) (hwf : i.wellFormed = true)
    (hpacket : i.packet = c.packet) (hmatch : crcMatches (encode i) = true) (hp : p < 8 * (encode i).length) :
    Performs s (c.decode (flipBit (encode i) p))
      (if p < 16 then { s.block with invalid := s.block.invalid.set c (satInc s.cfg (s.block.invalid.get c) 1) }
        else { s.block with corrupted :=
          s.block.corrupted.set c.toChan (satInc s.cfg (s.block.corrupted.get c.toChan) 1) })
      (.rx (.frameRejected (if p < 16 then .frameInvalid .magic else .frameCorrupt))) := by
  have hlen : (flipBit (encode i) p).length ≤ s.cfg.msgMax := by
    rw [flipBit_length]
    exact encode_length_le_msgMax hwf hpacket s.cfg
  rw [Performs, step_request, perform_decode c hlen, performDecode, ← hpacket]
  by_cases hstart : p < 16
  · rw [decode_flipBit_start hwf hstart, if_pos hstart, if_pos hstart]
    rfl
  · have hrest := Nat.le_of_not_lt hstart
    rw [decode_flipBit_rest hwf hp hrest, if_neg hstart, if_neg hstart]
    refine (exec_flipBit_rest hwf hmatch hp hrest s).trans ?_
    rw [hpacket, State.raiseCrcMismatch_message]
    rfl

/-! ## Serial frames -/

/-- A frame flipped after its sync bytes is found, read and rejected: the pair, then 198 bytes whose CRC check fails. -/
theorem performs_recvLeds_flipBit_rest (s : State) (i : Instr) (p : Nat) (tail : List Byte) (hwf : i.wellFormed = true)
    (hpacket : i.packet = .leds) (hmatch : crcMatches (encode i) = true) (hrest : 16 ≤ p)
    (hp : p < 8 * (encode i).length) (hfs : s.block.fs = .searching) (hflag : s.block.haveSync0 = false)
    (hq : s.block.rxq = flipBit (encode i) p ++ tail) :
    Performs s .recvLeds
      { s.block with
        rxq := tail
        corrupted := s.block.corrupted.set .leds (satInc s.cfg (s.block.corrupted.get .leds) 1) }
      (.rx (.frameRejected .frameCorrupt)) := by
  have hlen := flipBit_encode_length hwf p
  have hfits := (startFits_flipBit_encode i hp).mpr hrest
  have hexec := exec_flipBit_rest hwf hmatch hp hrest
  rw [hpacket] at hlen hfits hexec
  obtain ⟨payload, hframe, hpayload⟩ :=
    (length_and_start_iff _ readLen _ _).mp ⟨hlen, (PacketType.startFits_iff .leds _ _).mp hfits⟩
  change flipBit (encode i) p = candidateFrame payload at hframe
  rw [hframe] at hexec hq
  have hsearch := searchPhase_of_leading_pair s.cfg hfs hflag hq
  calc step (s.request .recvLeds)
      = performRecvLeds s := rfl
    _ = _ := performRecvLeds_of_payload hsearch rfl hpayload
    _ = _ := hexec _
    _ = .next { s with
          block := { s.block with
            rxq := tail
            fs := .searching
            haveSync0 := false
            corrupted := s.block.corrupted.set .leds (satInc s.cfg (s.block.corrupted.get .leds) 1) }
          results := s.results ++ [.rx (.frameRejected .frameCorrupt)] } := rfl
    _ = _ := by rw [← hfs, ← hflag]

/-- Where the search finds a pair it has taken at least the pair's `55`. -/
theorem search_found_shortens (budget : Nat) (q : List Byte) (n : Nat) (h : Bool)
    (hfound : (search budget q n h).stop = .found) : (search budget q n h).rxq.length < q.length := by
  induction q generalizing n h with
  | nil =>
    rw [search] at hfound
    split_ifs at hfound
  | cons b q ih =>
    rw [search] at hfound ⊢
    split_ifs at hfound ⊢ with hpair hbudget
    · exact Nat.lt_succ_self q.length
    · exact Nat.lt_succ_of_lt (ih _ _ hfound)

/-- A queue that does not start with the sync pair: a pair found in it stands further back, and fewer bytes are left behind it. -/
theorem search_found_behind_start (budget : Nat) {b0 b1 : Byte} (q : List Byte) (hstart : ¬ (b0 = sync0 ∧ b1 = sync1))
    (hfound : (search budget (b0 :: b1 :: q) 0 false).stop = .found) :
    (search budget (b0 :: b1 :: q) 0 false).rxq.length < q.length := by
  have hnopair : ¬ (b0 == sync0 && b1 == sync1) = true := by simpa using hstart
  rw [search, Bool.false_and, if_neg Bool.false_ne_true, search, if_neg hnopair] at hfound ⊢
  split_ifs at hfound ⊢
  exact search_found_shortens budget q _ _ hfound

/-- Bytes without a sync pair, within the budget, are all discarded; an `AA` at their end is remembered (R144, R150). -/
theorem search_of_noSyncPair (budget : Nat) (b : Byte) (q : List Byte) (n : Nat) (hnoise : NoSyncPair (b :: q))
    (hbudget : n + q.length < budget) :
    search budget q n (b == sync0) = ⟨.empty, [], decide ((b :: q).getLast? = some 0xAA#8)⟩ := by
  induction q generalizing b n with
  | nil =>
    have hwithin : ¬ budget ≤ n := by simp only [List.length_nil] at hbudget; omega
    by_cases hb : b = sync0
    · simp [search, hb]
    · simp [search, hb, hwithin]
  | cons b' q ih =>
    simp only [List.length_cons] at hbudget
    have hnopair : ¬ (b == sync0 && b' == sync1) = true := by simpa using hnoise 0 (by simp)
    have hrest : NoSyncPair (b' :: q) := fun k hk => hnoise (k + 1) (Nat.succ_lt_succ hk)
    rw [search, if_neg hnopair, if_neg (by omega), ih b' (n + 1) hrest (by omega), List.getLast?_cons_cons]

/-- `RECV_LEDS` reports no data when the search finds no pair, or one with less than a payload behind it. -/
theorem performRecvLeds_noData {s : State}
    (hshort : (searchPhase s.cfg s.block).2 = .found → (searchPhase s.cfg s.block).1.rxq.length < readLen) :
    ∃ cause n, performRecvLeds s =
      .next (s.complete { (searchPhase s.cfg s.block).1 with syncFailures := n } (.rx (.noData cause))) := by
  cases hend : (searchPhase s.cfg s.block).2 with
  | empty => exact ⟨.empty, _, by simp only [performRecvLeds, hend]; rfl⟩
  | syncNotFound => exact ⟨.syncNotFound, _, by simp only [performRecvLeds, hend]; rfl⟩
  | found =>
    have hincomplete : (searchPhase s.cfg s.block).1.qLen < readLen := hshort hend
    exact ⟨.frameIncomplete, _, by simp only [performRecvLeds, hend, if_pos hincomplete]; rfl⟩

theorem searchPhase_searching (cfg : Config) {b : Block} (hfs : b.fs = .searching) :
    searchPhase cfg b =
      ({ b with
          rxq := (search cfg.searchBudget b.rxq 0 b.haveSync0).rxq
          haveSync0 := (search cfg.searchBudget b.rxq 0 b.haveSync0).haveSync0
          fs := if (search cfg.searchBudget b.rxq 0 b.haveSync0).stop = .found then .reading else .searching },
        (search cfg.searchBudget b.rxq 0 b.haveSync0).stop) := by
  simp only [searchPhase, hfs]

/-- A frame with a flipped sync bit, written out: its first two bytes are no sync pair, and 198 bytes follow them. -/
theorem flipBit_leds_start {i : Instr} {p : Nat} (hwf : i.wellFormed = true) (hpacket : i.packet = .leds)
    (hstart : p < 16) :
    ∃ b0 b1 rest, flipBit (encode i) p = b0 :: b1 :: rest ∧ rest.length = readLen ∧ ¬ (b0 = sync0 ∧ b1 = sync1) := by
  have hlen := flipBit_encode_length hwf p
  have hbroken := mt (startFits_flipBit_encode i (start_lt_encode_length hwf hstart)).mp (Nat.not_le_of_lt hstart)
  rw [hpacket] at hlen hbroken
  rw [PacketType.startFits_iff] at hbroken
  obtain ⟨rest, hshape, hrest⟩ := (length_and_start_iff _ readLen _ _).mp ⟨hlen, rfl, rfl⟩
  exact ⟨_, _, rest, hshape, hrest, hbroken⟩

/-- A frame flipped in its sync bytes, with nothing behind it, is never read: a pair in it leaves less than a payload behind. -/
theorem performs_recvLeds_flipBit_start (s : State) (i : Instr) (p : Nat) (hwf : i.wellFormed = true)
    (hpacket : i.packet = .leds) (hstart : p < 16) (hfs : s.block.fs = .searching) (hflag : s.block.haveSync0 = false)
    (hq : s.block.rxq = flipBit (encode i) p) :
    (∃ cause q fs h n,
      Performs s .recvLeds { s.block with rxq := q, fs := fs, haveSync0 := h, syncFailures := n }
        (.rx (.noData cause))) ∧
    (NoSyncPair (flipBit (encode i) p) → 200 < s.cfg.searchBudget →
      Performs s .recvLeds
        { s.block with rxq := [], haveSync0 := decide ((flipBit (encode i) p).getLast? = some 0xAA#8) }
        (.rx (.noData .empty))) := by
  have hrecv : step (s.request .recvLeds) = performRecvLeds s := rfl
  have hsearch := searchPhase_searching s.cfg hfs
  obtain ⟨b0, b1, rest, hshape, hrest, hbroken⟩ := flipBit_leds_start hwf hpacket hstart
  rw [hflag, hq, hshape] at hsearch
  constructor
  · obtain ⟨cause, n, hnoData⟩ := performRecvLeds_noData (s := s) (by
      rw [hsearch]
      exact fun hfound => hrest ▸ search_found_behind_start _ rest hbroken hfound)
    exact ⟨cause, _, _, _, n, hrecv.trans (hnoData.trans (by rw [searchPhase_frame]; rfl))⟩
  · intro hnoise hbudget
    rw [hshape] at hnoise ⊢
    have hwithin : 0 + 1 + (b1 :: rest).length < s.cfg.searchBudget := by rw [List.length_cons, hrest]; omega
    rw [search, Bool.false_and, if_neg Bool.false_ne_true, if_neg (by omega),
      search_of_noSyncPair _ _ _ _ hnoise hwithin, if_neg nofun, ← hfs] at hsearch
    rw [Performs, hrecv, performRecvLeds, hsearch]
    rfl

/-! ## The bootstrap -/

/-- A poll that accumulates the last byte of a packet with wrong sync bytes rejects it (R224). -/
theorem performBootPoll_of_wrong_sync {s : State} {b : Block} {why : DecodeError} (hwait : s.block.bootState = .wait)
    (hacc : accumulate s.block = b) (hfull : b.bootFill = bootLen)
    (hdecode : PacketType.boot.decode b.bootBuf = .rejected why) :
    performBootPoll s = .next (s.raise b .bootstrapInvalidSync) := by
  simp [performBootPoll, hwait, hacc, hfull, hdecode]

theorem performs_bootPoll_flipBit (s : State) (i : Instr) (p : Nat) (tail : List Byte) (hwf : i.wellFormed = true)
    (hpacket : i.packet = .boot) (hmatch : crcMatches (encode i) = true) (hp : p < 8 * (encode i).length)
    (hwait : s.block.bootState = .wait) (hfill : s.block.bootFill = 0) (hbuf : s.block.bootBuf.length = 107)
    (hq : s.block.rxq = flipBit (encode i) p ++ tail) :
    Performs s .bootPoll
      { s.block with
        rxq := tail
        bootBuf := flipBit (encode i) p
        bootFill := 107
        bootState := .failed (if p < 16 then .invalidSync else .invalidCrc) }
      (.boot (.failed (if p < 16 then .invalidSync else .invalidCrc))) := by
  have hlen := flipBit_encode_length hwf p
  rw [hpacket] at hlen
  have hacc := accumulate_of_whole_packet hfill hbuf hq hlen
  have hpoll : step (s.request .bootPoll) = performBootPoll s := rfl
  rw [Performs, hpoll]
  by_cases hstart : p < 16
  · have hdecode := decode_flipBit_start hwf hstart
    rw [hpacket] at hdecode
    rw [performBootPoll_of_wrong_sync hwait hacc rfl hdecode, if_pos hstart]
    rfl
  · have hrest := Nat.le_of_not_lt hstart
    have hdecode := decode_flipBit_rest hwf hp hrest
    have hexec := exec_flipBit_rest hwf hmatch hp hrest
    rw [hpacket] at hdecode hexec
    rw [performBootPoll_of_whole_packet hwait hacc rfl hdecode, hexec, if_neg hstart]
    rfl

/-- Settles O42, one lemma per kind of packet. -/
theorem flippedBitIsNeverAccepted : Obligations.FlippedBitIsNeverAccepted :=
  ⟨performs_decode_flipBit, performs_recvLeds_flipBit_rest, performs_recvLeds_flipBit_start, performs_bootPoll_flipBit⟩

end Sys2Proof.Machine
end

section
/-! The serial channel (`41_serial_framer_deframer.md`): the framer, the search and its ends, and `RECV_LEDS` from each of them. The search is
followed over bytes without a sync pair (`search_noise_append`); what stands behind them decides how it ends. -/

namespace Sys2Proof.Machine

/-! ## The search loop of R144 -/

theorem searchLoop_nil (budget fuel n : Nat) (h : Bool) :
    searchLoop budget (fuel + 1) ⟨[], n, h⟩ = some (search budget [] n h) := by
  cases h with
  | true => rfl
  | false => by_cases hspent : budget ≤ n <;> simp [searchLoop, searchPass, search, hspent]

/-- A pass without the flag tests the budget and then removes one byte. -/
theorem searchLoop_cons_unflagged (budget fuel : Nat) (b : Byte) (q : List Byte) (n : Nat) :
    searchLoop budget (fuel + 1) ⟨b :: q, n, false⟩ =
      if budget ≤ n then some ⟨.syncNotFound, b :: q, false⟩ else searchLoop budget fuel ⟨q, n + 1, b == sync0⟩ := by
  by_cases hspent : budget ≤ n <;> simp [searchLoop, searchPass, hspent]

/-- A pass with the flag completes the pair, or drops the flag and leaves the byte for the next pass. -/
theorem searchLoop_cons_flagged (budget fuel : Nat) (b : Byte) (q : List Byte) (n : Nat) :
    searchLoop budget (fuel + 1) ⟨b :: q, n, true⟩ =
      if b = sync1 then some ⟨.found, q, false⟩ else searchLoop budget fuel ⟨b :: q, n, false⟩ := by
  by_cases hpair : b = sync1 <;> simp [searchLoop, searchPass, hpair]

/-- Settles O24, by induction on the queue: the pseudocode spends one pass on a removal, and one more where it first drops
the flag. -/
theorem searchIsTheSpecLoop : Obligations.SearchIsTheSpecLoop := by
  intro budget q n h fuel hfuel
  induction q generalizing n h fuel with
  | nil =>
    obtain ⟨fuel, rfl⟩ := Nat.exists_eq_add_of_le' (show 1 ≤ fuel by omega)
    exact searchLoop_nil budget fuel n h
  | cons b q ih =>
    rw [List.length_cons] at hfuel
    obtain ⟨fuel, rfl⟩ := Nat.exists_eq_add_of_le' (show 2 ≤ fuel by omega)
    have hremove (fuel : Nat) (hfuel : 2 * q.length + 2 ≤ fuel) :
        searchLoop budget (fuel + 1) ⟨b :: q, n, false⟩ = some (search budget (b :: q) n false) := by
      rw [searchLoop_cons_unflagged, search, ih (n + 1) (b == sync0) fuel hfuel]
      by_cases hspent : budget ≤ n <;> simp [hspent]
    cases h with
    | false => exact hremove (fuel + 1) (by omega)
    | true =>
      rw [searchLoop_cons_flagged, hremove fuel (by omega)]
      by_cases hpair : b = sync1 <;> simp [search, hpair]

/-! ## Noise -/

/-- Said without positions: the pair is no contiguous part of the noise. This is the form the library has facts about. -/
theorem noSyncPair_iff_not_infix (noise : List Byte) : NoSyncPair noise ↔ ¬ [sync0, sync1] <:+: noise := by
  constructor
  · rintro hnoise ⟨before, after, rfl⟩
    refine hnoise before.length (by simp) ⟨?_, ?_⟩ <;> simp [byteAt]
  · rintro hnoise i hi ⟨h0, h1⟩
    refine hnoise ⟨noise.take i, noise.drop (i + 2), ?_⟩
    rw [← h0, ← h1, List.append_assoc]
    change noise.take i ++ byteAt noise i :: byteAt noise (i + 1) :: noise.drop (i + 1 + 1) = noise
    rw [byteAt_cons_drop noise (i + 1) hi, byteAt_cons_drop noise i (by omega), List.take_append_drop]

theorem NoSyncPair.of_infix {noise part : List Byte} (h : NoSyncPair noise) (hpart : part <:+: noise) : NoSyncPair part :=
  (noSyncPair_iff_not_infix part).mpr fun hpair => (noSyncPair_iff_not_infix noise).mp h (hpair.trans hpart)

/-- One more byte makes a pair only if it is a `55` behind a last `AA`. -/
theorem noSyncPair_concat_iff (noise : List Byte) (b : Byte) :
    NoSyncPair (noise ++ [b]) ↔ NoSyncPair noise ∧ ¬ (noise.getLast? = some sync0 ∧ b = sync1) := by
  have hend : [sync0, sync1] <:+ noise ++ [b] ↔ noise.getLast? = some sync0 ∧ b = sync1 := by
    rw [← List.singleton_suffix_iff_getLast?_eq_some, eq_comm (a := b), ← List.singleton_inj]
    exact List.suffix_append_inj_of_length_eq (l₁ := [sync0]) (s₁ := [sync1]) (s₂ := [b]) rfl
  rw [noSyncPair_iff_not_infix, noSyncPair_iff_not_infix, List.infix_concat_iff, hend, not_or, and_comm]

/-! ## The search behind noise, and how it ends -/

/-- One removal: the byte does not complete a pair, and the budget is not spent. -/
theorem search_cons_of_no_pair {budget n : Nat} {b : Byte} {h : Bool} (q : List Byte) (hpair : ¬ (h = true ∧ b = sync1))
    (hbudget : n < budget) : search budget (b :: q) n h = search budget q (n + 1) (b == sync0) := by
  have htest : ¬ (h && b == sync1) = true := by simpa using hpair
  rw [search, if_neg htest, if_neg (Nat.not_le_of_lt hbudget)]

/-- Noise within the budget is removed byte by byte, and only its last byte is remembered (R144). -/
theorem search_noise_append {budget : Nat} {noise : List Byte} (q : List Byte) (hnoise : NoSyncPair noise)
    (hbudget : noise.length ≤ budget) :
    search budget (noise ++ q) 0 false = search budget q noise.length (decide (noise.getLast? = some sync0)) := by
  induction noise using List.reverseRecOn generalizing q with
  | nil => rfl
  | append_singleton noise b ih =>
    obtain ⟨hinit, hlast⟩ := (noSyncPair_concat_iff noise b).mp hnoise
    rw [List.length_append, List.length_singleton] at hbudget ⊢
    rw [List.append_assoc, List.singleton_append, ih (b :: q) hinit (Nat.le_of_succ_le hbudget),
      search_cons_of_no_pair q (by simpa using hlast) hbudget, List.getLast?_concat]
    simp only [Option.some.injEq, Bool.beq_eq_decide_eq]

/-- A pair is found although its `55` is one byte over the budget (R146). -/
theorem search_pair {budget n : Nat} {h : Bool} (q : List Byte) (hbudget : n < budget) :
    search budget (sync0 :: sync1 :: q) n h = ⟨.found, q, false⟩ := by
  rw [search_cons_of_no_pair _ (fun hpair => absurd hpair.2 (by decide)) hbudget]
  rfl

theorem search_carried_pair (budget n : Nat) (q : List Byte) : search budget (sync1 :: q) n true = ⟨.found, q, false⟩ := rfl

/-- The queue runs dry before the budget is tested: it is not spent, or the flag comes first (R146). -/
theorem search_nil {budget n : Nat} {h : Bool} (hdry : n < budget ∨ h = true) :
    search budget [] n h = ⟨.empty, [], h⟩ := by
  cases h with
  | true => rfl
  | false =>
    have hbudget : ¬ budget ≤ n := by simpa using hdry
    rw [search, if_neg Bool.false_ne_true, if_neg hbudget]

/-- The budget is spent, and a carried flag is dropped by the byte that follows (R146 (c)). -/
theorem search_of_budget_spent {budget n : Nat} {q : List Byte} {h : Bool} (hspent : budget ≤ n)
    (hdropped : h = true → ∃ b rest, q = b :: rest ∧ b ≠ sync1) :
    search budget q n h = ⟨.syncNotFound, q, false⟩ := by
  cases q with
  | nil =>
    have hflag : ¬ h = true := fun hh => by simpa using hdropped hh
    rw [search, if_neg hflag, if_pos hspent]
  | cons b q =>
    have htest : ¬ (h && b == sync1) = true := by
      intro htest
      simp only [Bool.and_eq_true, beq_iff_eq] at htest
      obtain ⟨_, _, hq, hne⟩ := hdropped htest.1
      cases hq
      exact hne htest.2
    rw [search, if_neg htest, if_pos hspent]

/-- A budget's worth of noise is removed and the search gives up, unless the queue ends there with an `AA`. -/
theorem search_spends_budget {budget : Nat} {q : List Byte} (hlen : budget ≤ q.length)
    (hnoise : NoSyncPair (q.take (budget + 1))) (hlast : ¬ (q.length = budget ∧ q.getLast? = some sync0)) :
    search budget q 0 false = ⟨.syncNotFound, q.drop budget, false⟩ := by
  obtain ⟨noise, rest, rfl, rfl⟩ : ∃ noise rest, q = noise ++ rest ∧ noise.length = budget :=
    ⟨q.take budget, q.drop budget, (List.take_append_drop ..).symm, List.length_take_of_le hlen⟩
  rw [List.take_length_add_append] at hnoise
  have hremoved : NoSyncPair noise := hnoise.of_infix (List.prefix_append ..).isInfix
  rw [search_noise_append rest hremoved le_rfl, List.drop_left]
  refine search_of_budget_spent le_rfl fun hflagged => ?_
  cases rest with
  | nil =>
    rw [List.append_nil] at hlast
    exact absurd ⟨rfl, of_decide_eq_true hflagged⟩ hlast
  | cons b rest =>
    obtain ⟨-, hnopair⟩ := (noSyncPair_concat_iff noise b).mp hnoise
    exact ⟨b, rest, rfl, fun hb => hnopair ⟨of_decide_eq_true hflagged, hb⟩⟩

/-- A carried flag makes no difference in front of a byte that does not complete the pair (R144). -/
theorem search_drops_flag {budget n : Nat} {b : Byte} (q : List Byte) (hbudget : n < budget) (hb : b ≠ sync1) :
    search budget (b :: q) n true = search budget (b :: q) n false := by
  rw [search_cons_of_no_pair q (fun hpair => hb hpair.2) hbudget, search_cons_of_no_pair q (by simp) hbudget]

/-! ## The searching phase -/

theorem searchPhase_of_found {cfg : Config} {b : Block} {q : List Byte} (hfs : b.fs = .searching)
    (hsearch : search cfg.searchBudget b.rxq 0 b.haveSync0 = ⟨.found, q, false⟩) :
    searchPhase cfg b = ({ b with rxq := q, haveSync0 := false, fs := .reading }, .found) := by
  rw [searchPhase_searching cfg hfs, hsearch, if_pos rfl]

theorem searchPhase_of_not_found {cfg : Config} {b : Block} {stop : SearchEnd} {q : List Byte} {h : Bool}
    (hfs : b.fs = .searching) (hsearch : search cfg.searchBudget b.rxq 0 b.haveSync0 = ⟨stop, q, h⟩)
    (hstop : stop ≠ .found) : searchPhase cfg b = ({ b with rxq := q, haveSync0 := h }, stop) := by
  rw [searchPhase_searching cfg hfs, hsearch, if_neg hstop, ← hfs]

/-- In READING the pair is already consumed. -/
theorem searchPhase_of_reading (cfg : Config) {b : Block} (hfs : b.fs = .reading) : searchPhase cfg b = (b, .found) := by
  simp only [searchPhase, hfs]

/-- A pair behind noise of less than the budget is found, and noise and pair are consumed (R144). -/
theorem searchPhase_of_noise_pair {cfg : Config} {b : Block} {noise q : List Byte} (hfs : b.fs = .searching)
    (hflag : b.haveSync0 = false) (hq : b.rxq = noise ++ sync0 :: sync1 :: q) (hnoise : NoSyncPair noise)
    (hbudget : noise.length < cfg.searchBudget) :
    searchPhase cfg b = ({ b with rxq := q, fs := .reading }, .found) := by
  have hsearch : search cfg.searchBudget b.rxq 0 b.haveSync0 = ⟨.found, q, false⟩ := by
    rw [hflag, hq, search_noise_append _ hnoise hbudget.le, search_pair q hbudget]
  rw [searchPhase_of_found hfs hsearch, ← hflag]

/-! ## `RECV_LEDS` by the end of its search -/

theorem step_request_recvLeds (s : State) : step (s.request .recvLeds) = performRecvLeds s := rfl

theorem performs_recvLeds_of_empty {s : State} {b : Block} (hsearch : searchPhase s.cfg s.block = (b, .empty)) :
    Performs s .recvLeds b (.rx (.noData .empty)) := by
  rw [Performs, step_request_recvLeds, performRecvLeds, hsearch]
  rfl

theorem performs_recvLeds_of_syncNotFound {s : State} {b : Block}
    (hsearch : searchPhase s.cfg s.block = (b, .syncNotFound)) :
    Performs s .recvLeds { b with syncFailures := satInc s.cfg b.syncFailures 1 } (.rx (.noData .syncNotFound)) := by
  rw [Performs, step_request_recvLeds, performRecvLeds, hsearch]
  rfl

theorem performs_recvLeds_of_incomplete {s : State} {b : Block} (hsearch : searchPhase s.cfg s.block = (b, .found))
    (hshort : b.rxq.length < 198) : Performs s .recvLeds b (.rx (.noData .frameIncomplete)) := by
  have hincomplete : b.qLen < readLen := hshort
  rw [Performs, step_request_recvLeds, performRecvLeds, hsearch]
  exact if_pos hincomplete

/-- What a call does depends on the block only through its searching phase. -/
theorem performRecvLeds_of_same_search {s : State} {b : Block} (h : searchPhase s.cfg b = searchPhase s.cfg s.block) :
    performRecvLeds { s with block := b } = performRecvLeds s := by
  simp only [performRecvLeds, h]
  rfl

/-- The frame that the pair and the next 198 bytes make is decoded and executed (R143, R145). -/
theorem step_recvLeds_of_frame {s : State} {b : Block} {payload tail : List Byte} {i : Instr}
    (hsearch : searchPhase s.cfg s.block = (b, .found)) (hq : b.rxq = payload ++ tail)
    (hdecode : PacketType.leds.decode (candidateFrame payload) = .instr i) :
    step (s.request .recvLeds) = exec i { s with block := { b with rxq := tail } } := by
  obtain ⟨hlen, -, rfl⟩ := decode_eq_instr _ _ _ hdecode
  exact performRecvLeds_of_payload hsearch hq (Nat.add_right_cancel (m := 2) hlen)

/-- A packet that decodes as a serial frame is the sync pair and its payload (R105). -/
theorem candidateFrame_of_decode {frame : List Byte} {i : Instr} (hdecode : PacketType.leds.decode frame = .instr i) :
    ∃ payload, frame = candidateFrame payload := by
  obtain ⟨payload, hframe, -⟩ := (decodedExactlyWhenLengthAndStartFit .leds frame).mp ⟨i, hdecode⟩
  exact ⟨payload, hframe⟩

/-! ## The statements on one call -/

/-- Settles O30: behind noise the search finds the frame's own pair; in READING there is nothing to search. -/
theorem stepRunsSerialFrame : Obligations.StepRunsSerialFrame := by
  constructor
  · intro s noise frame tail i hfs hflag hq hnoise hbudget hdecode
    obtain ⟨payload, rfl⟩ := candidateFrame_of_decode hdecode
    rw [List.append_assoc] at hq
    exact step_recvLeds_of_frame (searchPhase_of_noise_pair hfs hflag hq hnoise hbudget) rfl hdecode
  · intro s payload tail i hfs hq hdecode
    exact step_recvLeds_of_frame (searchPhase_of_reading s.cfg hfs) hq hdecode

/-- Settles O25: in both clauses the pair is there and the payload is not. -/
theorem readingWaitsForTheWholePayload : Obligations.ReadingWaitsForTheWholePayload := by
  constructor
  · intro s hfs hshort
    exact performs_recvLeds_of_incomplete (searchPhase_of_reading s.cfg hfs) hshort
  · intro s noise tail hfs hflag hq hnoise hbudget hshort
    rw [List.append_assoc] at hq
    exact performs_recvLeds_of_incomplete (searchPhase_of_noise_pair hfs hflag hq hnoise hbudget) hshort

/-- Settles O26: the whole queue is noise, and behind it the queue is empty. -/
theorem searchRunsDry : Obligations.SearchRunsDry := by
  intro s hfs hflag hnoise hdry
  have hbudget : s.block.rxq.length ≤ s.cfg.searchBudget := by omega
  have hend : s.block.rxq.length < s.cfg.searchBudget ∨ decide (s.block.rxq.getLast? = some sync0) = true :=
    hdry.imp_right fun ⟨_, hlast⟩ => decide_eq_true hlast
  have hsearch := search_noise_append [] hnoise hbudget
  rw [List.append_nil, search_nil hend, ← hflag] at hsearch
  exact performs_recvLeds_of_empty (searchPhase_of_not_found hfs hsearch nofun)

/-- Settles O27: the first `SEARCH_BUDGET` bytes are noise, and the byte behind them, if there is one, completes no pair. -/
theorem searchExhaustsItsBudget : Obligations.SearchExhaustsItsBudget := by
  intro s hfs hflag hlen hnoise hlast
  have hsearch := search_spends_budget hlen hnoise hlast
  rw [← hflag] at hsearch
  exact performs_recvLeds_of_syncNotFound (searchPhase_of_not_found hfs hsearch nofun)

/-- Settles O28, by the byte behind the remembered `AA`: none, a `55`, or another. -/
theorem carriedSyncByte : Obligations.CarriedSyncByte := by
  intro s hfs hflag
  have hpair (q : List Byte) (hq : s.block.rxq = sync1 :: q) :
      searchPhase s.cfg s.block = ({ s.block with rxq := q, haveSync0 := false, fs := .reading }, .found) :=
    searchPhase_of_found hfs (by rw [hflag, hq, search_carried_pair])
  refine ⟨fun hq => ?_, fun q hq hshort => ?_, fun payload tail i hq hdecode => ?_, fun v q hq hv => ?_⟩
  · have hsearch : search s.cfg.searchBudget s.block.rxq 0 s.block.haveSync0 =
        ⟨.empty, s.block.rxq, s.block.haveSync0⟩ := by
      rw [hflag, hq, search_nil (.inr rfl)]
    exact performs_recvLeds_of_empty (searchPhase_of_not_found hfs hsearch nofun)
  · exact performs_recvLeds_of_incomplete (hpair q hq) hshort
  · exact step_recvLeds_of_frame (hpair (payload ++ tail) hq) rfl hdecode
  · have hsame := search_drops_flag q s.cfg.searchBudget_pos hv
    rw [← hq] at hsame
    refine (performRecvLeds_of_same_search (s := s) (b := { s.block with haveSync0 := false }) ?_).symm
    rw [searchPhase_searching s.cfg hfs, searchPhase_searching s.cfg (b := { s.block with haveSync0 := false }) hfs, hflag,
      hsame]

/-! ## The framer, and the meaning of its frame -/

/-- Settles O17: 196 pixel bytes are a request that can be expressed, and performing it takes the channel's counter. -/
theorem encLedsResult : Obligations.EncLedsResult := by
  intro s pixels hpixels
  have hexpressible : (Operation.encLeds pixels).expressible s.cfg = true := beq_iff_eq.mpr hpixels
  calc step (s.request (.encLeds pixels))
      = performOperation (.encLeds pixels) s := if_pos hexpressible
    _ = _ := rfl

theorem crcMatches_encode_leds (pixels : List Byte) (ctr crc : Byte) :
    crcMatches (encode (.leds pixels ctr crc)) = true ↔ crc8 ([0xAA#8, 0x55#8] ++ pixels ++ [ctr]) = crc := by
  rw [crcMatches_encode, beq_iff_eq]
  rfl

/-- Settles O31, by the two outcomes of the CRC check. -/
theorem ledsFrameValidated : Obligations.LedsFrameValidated := by
  intro pixels ctr crc s b
  constructor
  · intro hcrc
    exact if_pos ((crcMatches_encode_leds pixels ctr crc).mpr hcrc)
  · intro hcrc
    exact if_neg (mt (crcMatches_encode_leds pixels ctr crc).mp hcrc)

/-! ## Resynchronisation -/

/-- A run performs the oldest request and goes on from what it leaves. -/
theorem run_request {s : State} {op : Operation} {b : Block} {r : Result} (h : Performs s op b r) (k : Nat) :
    Host.Core.run Sys2Proof.core (k + 1) (s.request op) =
      Host.Core.run Sys2Proof.core k { s with block := b, results := s.results ++ [r] } := by
  have hstep : Sys2Proof.core.step (s.request op) = _ := h
  simp only [Host.Core.run, hstep]

/-- A call over noise that fills the budget discards that much of it: the frame behind the noise starts with `AA` and so completes no pair
with the noise's last byte. -/
theorem performs_recvLeds_of_long_noise {s : State} {noise rest : List Byte} (hfs : s.block.fs = .searching)
    (hflag : s.block.haveSync0 = false) (hq : s.block.rxq = noise ++ sync0 :: rest) (hnoise : NoSyncPair noise)
    (hlong : s.cfg.searchBudget ≤ noise.length) :
    Performs s .recvLeds
      { s.block with
        rxq := s.block.rxq.drop s.cfg.searchBudget
        syncFailures := min (s.block.syncFailures + 1) (2 ^ s.cfg.cntW - 1) }
      (.rx (.noData .syncNotFound)) := by
  have hlen : s.cfg.searchBudget < s.block.rxq.length := by
    rw [hq, List.length_append, List.length_cons]
    omega
  have hbehind : NoSyncPair (noise ++ [sync0]) :=
    (noSyncPair_concat_iff noise sync0).mpr ⟨hnoise, fun hpair => absurd hpair.2 (by decide)⟩
  have hinfix : s.block.rxq.take (s.cfg.searchBudget + 1) <:+: noise ++ [sync0] := by
    have hsplit : s.block.rxq = (noise ++ [sync0]) ++ rest := by simp [hq]
    rw [hsplit, List.take_append_of_le_length (by simpa using hlong)]
    exact (List.take_prefix ..).isInfix
  exact searchExhaustsItsBudget s hfs hflag hlen.le (hbehind.of_infix hinfix) fun ⟨heq, _⟩ => hlen.ne' heq

/-- A call that finds a packed frame within its budget accepts it (R143, R147). -/
theorem performs_recvLeds_packLeds {s : State} {noise pixels tail : List Byte} {ctr : Byte}
    (hfs : s.block.fs = .searching) (hflag : s.block.haveSync0 = false) (hpixels : pixels.length = 196)
    (hnoise : NoSyncPair noise) (hq : s.block.rxq = noise ++ packLeds pixels ctr ++ tail)
    (hbudget : noise.length < s.cfg.searchBudget) :
    Performs s .recvLeds (track s.cfg { s.block with rxq := tail } .leds ctr).1
      (.rx (.frameAccepted (.leds pixels ctr) (track s.cfg { s.block with rxq := tail } .leds ctr).2)) := by
  obtain ⟨behindNoise, _⟩ := stepRunsSerialFrame
  have hdecode := decode_encode (.leds pixels ctr (crc8 ([sync0, sync1] ++ pixels ++ [ctr]))) (beq_iff_eq.mpr hpixels)
  obtain ⟨accepted, _⟩ := ledsFrameValidated pixels ctr _
    { s with block := { s.block with rxq := tail, fs := .reading } }
  refine (behindNoise s noise _ tail _ hfs hflag hq hnoise hbudget hdecode).trans ((accepted rfl).trans ?_)
  rw [← hfs]

/-- Settles O32, by induction on the number of calls that noise alone answers. -/
theorem resynchronisesAfterNoise : Obligations.ResynchronisesAfterNoise := by
  intro s noise pixels tail ctr n hfs hflag hpixels hnoise hq htop hn
  induction n generalizing s noise with
  | zero =>
    have hbudget : noise.length < s.cfg.searchBudget := Nat.lt_of_div_eq_zero s.cfg.searchBudget_pos hn.symm
    have hcall := performs_recvLeds_packLeds (s := s) hfs hflag hpixels hnoise hq hbudget
    have hcount : min (s.block.syncFailures + 0) (2 ^ s.cfg.cntW - 1) = s.block.syncFailures := Nat.min_eq_left htop
    refine (run_request hcall 0).trans ?_
    simp only [hcount, List.replicate_zero, List.append_nil]
    rfl
  | succ n ih =>
    have hlong : s.cfg.searchBudget ≤ noise.length := by
      by_contra hshort
      rw [Nat.div_eq_of_lt (by omega)] at hn
      omega
    have hrest : n = (noise.drop s.cfg.searchBudget).length / s.cfg.searchBudget := by
      rw [Nat.div_eq_sub_div s.cfg.searchBudget_pos hlong] at hn
      rw [List.length_drop]
      omega
    have hbehind : s.block.rxq.drop s.cfg.searchBudget =
        noise.drop s.cfg.searchBudget ++ packLeds pixels ctr ++ tail := by
      rw [hq, List.append_assoc, List.drop_append_of_le_length hlong, List.append_assoc]
    have hcall := performs_recvLeds_of_long_noise
      (s := { s with pending := List.replicate (n + 1) .recvLeds ++ s.pending }) hfs hflag
      (hq.trans (List.append_assoc ..)) hnoise hlong
    have hcount : min (min (s.block.syncFailures + 1) (2 ^ s.cfg.cntW - 1) + n) (2 ^ s.cfg.cntW - 1) =
        min (s.block.syncFailures + (n + 1)) (2 ^ s.cfg.cntW - 1) := by omega
    have hrun := ih
      { s with
        block := { s.block with
          rxq := s.block.rxq.drop s.cfg.searchBudget
          syncFailures := min (s.block.syncFailures + 1) (2 ^ s.cfg.cntW - 1) }
        results := s.results ++ [.rx (.noData .syncNotFound)] }
      _ hfs hflag (hnoise.of_infix (List.drop_suffix ..).isInfix) hbehind (Nat.min_le_right ..) hrest
    refine (run_request hcall (n + 1)).trans (hrun.trans ?_)
    simp only [hcount, List.replicate_succ, List.append_assoc, List.cons_append, List.nil_append]

end Sys2Proof.Machine
end

section
/-! The datagram codec (`42_datagram_codec.md`): the encoders, the checks of a message in their order, and what every message does. How a
decoder ends is decided by the message and the parameters alone (`step_decode_ends`); the statements about all messages are case splits
over its ends (`MessageEnd`). -/

namespace Sys2Proof.Machine

/-! ## The message packets and their CRC check -/

/-- R85, the magic as its two wire bytes (R51). -/
theorem encodeBody_ledd (ctr rsv crc : Byte) (pixels : List Byte) :
    encodeBody (.ledd ctr rsv pixels crc) = [0x55#8, 0xAA#8, ctr, rsv] ++ pixels := by
  rw [encodeBody, store16_magicLed]
  rfl

/-- R87, the magic as its two wire bytes (R51). -/
theorem encodeBody_param (anim ctr crc : Byte) (p1 p2 p3 : U32) :
    encodeBody (.param anim ctr p1 p2 p3 crc) = [0x55#8, 0xAA#8, anim, ctr] ++ store32 p1 ++ store32 p2 ++ store32 p3 := by
  rw [encodeBody, store16_magicParam]
  rfl

/-- R86, the magic as its two wire bytes (R51). -/
theorem encodeBody_btn (a b c d crc : Byte) : encodeBody (.btn a b c d crc) = [0xA5#8, 0x5A#8, a, b, c, d] := by
  rw [encodeBody, store16_magicBtn]
  rfl

theorem crcMatches_encode_iff (i : Instr) : crcMatches (encode i) = true ↔ crc8 (encodeBody i) = crcField i := by
  rw [crcMatches_encode, beq_iff_eq]

/-! ## The encoders -/

/-- Settles O18: 196 pixel bytes are a request that can be expressed, and performing it takes the channel's counter. -/
theorem encLeddResult : Obligations.EncLeddResult := by
  intro s pixels hpixels
  have hexpressible : (Operation.encLedd pixels).expressible s.cfg = true := beq_iff_eq.mpr hpixels
  have hpack : packLedd pixels s.block.txCtr.ledd 0 = _ :=
    congrArg sealPacket (encodeBody_ledd s.block.txCtr.ledd 0 0 pixels)
  calc step (s.request (.encLedd pixels))
      = .next (s.complete (takeCtr s.block .ledd).2 (.packet (packLedd pixels s.block.txCtr.ledd 0))) := if_pos hexpressible
    _ = _ := by rw [hpack]; rfl

/-- Settles O19: the words are the bytes that `store32` writes, and performing the request takes the channel's counter. -/
theorem encParamResult : Obligations.EncParamResult := by
  intro s animType p1 p2 p3 byte body
  have hpack : packParam animType s.block.txCtr.param p1 p2 p3 = sealPacket body :=
    congrArg sealPacket (encodeBody_param animType s.block.txCtr.param 0 p1 p2 p3)
  calc step (s.request (.encParam animType p1 p2 p3))
      = .next (s.complete (takeCtr s.block .param).2 (.packet (packParam animType s.block.txCtr.param p1 p2 p3))) := rfl
    _ = _ := by rw [hpack]; rfl

/-- Settles O20: the block is the one the request found. -/
theorem encBtnResult : Obligations.EncBtnResult := by
  intro s a b c d byte
  have hpack : packBtn (byte a) (byte b) (byte c) (byte d) = _ :=
    congrArg sealPacket (encodeBody_btn (byte a) (byte b) (byte c) (byte d) 0)
  calc step (s.request (.encBtn a b c d))
      = .next (s.complete s.block (.packet (packBtn (byte a) (byte b) (byte c) (byte d)))) := rfl
    _ = _ := by rw [hpack]; rfl

/-! ## Length, then magic -/

theorem decode_of_wrong_length {k : PacketType} {bytes : List Byte} (h : bytes.length ≠ k.length) :
    k.decode bytes = .rejected .wrongLength := if_pos h

theorem decode_of_wrong_start {k : PacketType} {bytes : List Byte} (hlen : bytes.length = k.length)
    (hstart : ¬ k.startFits (byteAt bytes 0) (byteAt bytes 1) = true) : k.decode bytes = .rejected .wrongStart := by
  rw [PacketType.decode, if_neg (not_not_intro hlen), if_neg hstart]

/-- The sub-cause of `FrameInvalid` that a decoder's rejection is reported as (R174). -/
def invalidCause : DecodeError → InvalidCause
  | .wrongLength => .length
  | .wrongStart => .magic

theorem performDecode_of_rejected {c : MsgChan} {msg : List Byte} {why : DecodeError}
    (h : c.packet.decode msg = .rejected why) (s : State) :
    performDecode c msg s = .next (s.raise s.block (.frameInvalid c (invalidCause why))) := by
  cases why <;> simp only [performDecode, h, invalidCause]

theorem step_decode_of_rejected {c : MsgChan} {msg : List Byte} {why : DecodeError} {s : State}
    (hmax : msg.length ≤ s.cfg.msgMax) (h : c.packet.decode msg = .rejected why) :
    step (s.request (c.decode msg)) = .next (s.raise s.block (.frameInvalid c (invalidCause why))) := by
  rw [step_request, perform_decode c hmax, performDecode_of_rejected h]

/-- Settles O33: a message that decodes is the encoding of its packet, so it is short enough to be presented (R55). -/
theorem stepRunsMessage : Obligations.StepRunsMessage := by
  intro s c msg i hdecode
  obtain ⟨hpacket, hwf, rfl⟩ := encodeDecodeAgree _ _ _ hdecode
  exact step_request_decode_encode hwf hpacket s

/-- Settles O34, by the two ways a message can be no packet of its channel. -/
theorem messageRejectedByLengthThenMagic : Obligations.MessageRejectedByLengthThenMagic := by
  intro s c msg hmax length magic b
  have hlength : length = c.packet.length := by cases c <;> rfl
  have hmagic : c.packet.startFits (byteAt msg 0) (byteAt msg 1) = true ↔ le16 (byteAt msg 0) (byteAt msg 1) = magic := by
    cases c <;> exact beq_iff_eq
  constructor
  · intro hlen
    exact step_decode_of_rejected hmax (decode_of_wrong_length (hlength ▸ hlen))
  · intro hlen hstart
    exact step_decode_of_rejected hmax (decode_of_wrong_start (hlen.trans hlength) (mt hmagic.mp hstart))

/-! ## The meanings of the message packets -/

/-- Settles O35, by the two outcomes of the CRC check. -/
theorem leddMessageValidated : Obligations.LeddMessageValidated := by
  intro ctr rsv crc pixels s
  have hcheck := crcMatches_encode_iff (.ledd ctr rsv pixels crc)
  rw [encodeBody_ledd] at hcheck
  exact ⟨fun hcrc => if_pos (hcheck.mpr hcrc), fun hcrc => if_neg (mt hcheck.mp hcrc)⟩

/-- Settles O36, by the two outcomes of the CRC check. -/
theorem paramMessageValidated : Obligations.ParamMessageValidated := by
  intro anim ctr crc p1 p2 p3 s body
  have hcheck := crcMatches_encode_iff (.param anim ctr p1 p2 p3 crc)
  rw [encodeBody_param] at hcheck
  exact ⟨fun hcrc => if_pos (hcheck.mpr hcrc), fun hcrc => if_neg (mt hcheck.mp hcrc)⟩

/-- Settles O37, by the two outcomes of the CRC check. -/
theorem btnMessageValidated : Obligations.BtnMessageValidated := by
  intro a b c d crc s
  have hcheck := crcMatches_encode_iff (.btn a b c d crc)
  rw [encodeBody_btn] at hcheck
  exact ⟨fun hcrc => if_pos (hcheck.mpr hcrc), fun hcrc => if_neg (mt hcheck.mp hcrc)⟩

/-! ## Round trip -/

/-- A poll at the start of the stream takes a packed bootstrap packet whole, and what follows it stays queued (R223, R224). -/
theorem performs_bootPoll_packBoot {s : State} {ssid password ip tail : List Byte} {ledPort buttonPort : U16}
    (hssid : ssid.length = 32) (hpassword : password.length = 64) (hip : ip.length = 4)
    (hwait : s.block.bootState = .wait) (hfill : s.block.bootFill = 0) (hbuf : s.block.bootBuf.length = 107)
    (hq : s.block.rxq = packBoot ssid password ip ledPort buttonPort ++ tail) :
    Performs s .bootPoll
      { s.block with
        rxq := tail
        bootBuf := packBoot ssid password ip ledPort buttonPort
        bootFill := 107
        bootState := .done }
      (.boot (.done ⟨ssid, password, ip, ledPort, buttonPort⟩)) := by
  rw [packBoot_eq_encode] at hq ⊢
  set i := Instr.boot ssid password ip ledPort buttonPort _ with hi
  have hwf : i.wellFormed = true := by simp [hi, Instr.wellFormed, hssid, hpassword, hip]
  have hacc := accumulate_of_whole_packet hfill hbuf hq (encode_length i hwf)
  have hmatch : crcMatches (encode i) = true := (crcMatches_encode_iff i).mpr rfl
  calc step (s.request .bootPoll)
      = performBootPoll s := rfl
    _ = _ := performBootPoll_of_whole_packet hwait hacc rfl (decode_encode i hwf)
    _ = _ := if_pos hmatch

/-- Settles O38, packet by packet: a packed packet is the encoding of its fields with the CRC byte the check asks for. -/
theorem packedPacketsAreAccepted : Obligations.PackedPacketsAreAccepted := by
  intro s
  refine ⟨fun pixels ctr rsv hpixels => ?_, fun anim ctr p1 p2 p3 => ?_, fun a b c d => ?_,
    fun pixels ctr hpixels hfs hflag hq => ?_, fun ssid password ip tail ledPort buttonPort => performs_bootPoll_packBoot⟩
  · obtain ⟨accepted, -⟩ := leddMessageValidated ctr rsv _ pixels s
    rw [packLedd_eq_encode]
    exact (step_request_decode_encode (c := .ledd) (i := .ledd ctr rsv pixels _) (beq_iff_eq.mpr hpixels) rfl s).trans
      (accepted rfl)
  · obtain ⟨accepted, -⟩ := paramMessageValidated anim ctr _ p1 p2 p3 s
    rw [packParam_eq_encode]
    exact (step_request_decode_encode (c := .param) rfl rfl s).trans (accepted rfl)
  · obtain ⟨accepted, -⟩ := btnMessageValidated a b c d _ s
    rw [packBtn_eq_encode]
    exact (step_request_decode_encode (c := .btn) rfl rfl s).trans (accepted rfl)
  · exact performs_recvLeds_packLeds (noise := []) hfs hflag hpixels nofun (hq.trans (List.append_nil _).symm)
      s.cfg.searchBudget_pos

/-! ## The ends of a decoder -/

/-- The ways in which the decoder of channel `c` can end. -/
inductive MessageEnd (c : MsgChan)
  /-- The message is longer than `MSG_MAX` and cannot be presented (U8). -/
  | refused
  /-- Wrong length or wrong magic (R174). -/
  | invalid (why : InvalidCause)
  /-- The CRC check failed (R174). -/
  | corrupt
  /-- A packet of a sequenced channel is accepted: the tracker of that channel, which is `c`, runs (R175, R176). -/
  | tracked (d : SeqChan) (hd : d.toChan = c.toChan) (ctr : Byte) (payload : Payload)
  /-- A Button Frame is accepted: it is counted (R177). -/
  | counted (hc : c = .btn) (payload : Payload)

/-- The state that a decoder's end leaves. -/
def State.endMessage {c : MsgChan} (s : State) : MessageEnd c → State
  | .refused => refuseRequest s
  | .invalid why => s.raise s.block (.frameInvalid c why)
  | .corrupt => s.raise s.block (.frameCorrupt c.toChan)
  | .tracked d _ ctr payload => s.acceptTracked s.block d ctr payload
  | .counted _ payload =>
    s.complete { s.block with accepted := s.block.accepted.set c.toChan (satInc s.cfg (s.block.accepted.get c.toChan) 1) }
      (.rx (.frameAccepted payload 0))

theorem exec_fieldsOf_of_crc_match (c : MsgChan) {msg : List Byte} (h : crcMatches (encode (c.packet.fieldsOf msg)) = true) :
    ∃ e : MessageEnd c, ∀ s : State, exec (c.packet.fieldsOf msg) s = .next (s.endMessage e) := by
  cases c with
  | ledd => exact ⟨.tracked .ledd rfl _ _, fun s => if_pos h⟩
  | param => exact ⟨.tracked .param rfl _ _, fun s => if_pos h⟩
  | btn => exact ⟨.counted rfl _, fun s => if_pos h⟩

theorem exec_fieldsOf_of_crc_mismatch (c : MsgChan) {msg : List Byte}
    (h : crcMatches (encode (c.packet.fieldsOf msg)) = false) (s : State) :
    exec (c.packet.fieldsOf msg) s = .next (s.endMessage (c := c) .corrupt) := by
  rw [exec_of_crc_mismatch h, PacketType.fieldsOf_packet, State.raiseCrcMismatch_message]
  rfl

/-- What a decoder does, said once: it ends in one way, which the parameters and the message decide and no register does (R174). -/
theorem step_decode_ends (cfg : Config) (c : MsgChan) (msg : List Byte) :
    ∃ e : MessageEnd c, ∀ s : State, s.cfg = cfg → step (s.request (c.decode msg)) = .next (s.endMessage e) := by
  by_cases hmax : msg.length ≤ cfg.msgMax
  swap
  · refine ⟨.refused, fun s hcfg => ?_⟩
    subst hcfg
    have hlong : ¬ decide (msg.length ≤ s.cfg.msgMax) = true := by simpa using hmax
    cases c <;> exact if_neg hlong
  cases hdecode : c.packet.decode msg with
  | rejected why => exact ⟨.invalid (invalidCause why), fun s hcfg => step_decode_of_rejected (hcfg ▸ hmax) hdecode⟩
  | instr i =>
    have hrun (s : State) := stepRunsMessage s c msg i hdecode
    obtain ⟨-, -, rfl⟩ := decode_eq_instr _ _ _ hdecode
    cases hcrc : crcMatches (encode (c.packet.fieldsOf msg)) with
    | true =>
      obtain ⟨e, hexec⟩ := exec_fieldsOf_of_crc_match c hcrc
      exact ⟨e, fun s _ => (hrun s).trans (hexec s)⟩
    | false => exact ⟨.corrupt, fun s _ => (hrun s).trans (exec_fieldsOf_of_crc_mismatch c hcrc s)⟩

/-- The next state of a decode request, as the end of its decoder. -/
theorem step_decode_inversion {s t : State} {c : MsgChan} {msg : List Byte} (h : step (s.request (c.decode msg)) = .next t) :
    ∃ e : MessageEnd c, t = s.endMessage e := by
  obtain ⟨e, hends⟩ := step_decode_ends s.cfg c msg
  have hnext := h.symm.trans (hends s rfl)
  injection hnext with ht
  exact ⟨e, ht⟩

/-! ## A rejected message -/

/-- Settles O39, by the ends of the decoder: the two rejections record one condition each, and no other end answers a rejection. -/
theorem rejectionMovesOnlyItsCounter : Obligations.RejectionMovesOnlyItsCounter := by
  intro s t c msg reason hstep hanswer corrupted invalid
  obtain ⟨e, rfl⟩ := step_decode_inversion hstep
  cases e with
  | invalid why =>
    obtain rfl : .frameInvalid why = reason := by simpa [State.endMessage, returned] using hanswer
    rfl
  | corrupt =>
    obtain rfl : .frameCorrupt = reason := by simpa [State.endMessage, returned] using hanswer
    rfl
  | refused | tracked | counted => simp [State.endMessage, refuseRequest] at hanswer

/-! ## Channels do not interfere -/

theorem track_skipped_get_of_ne (cfg : Config) (b : Block) {c d : SeqChan} (r : Byte) (h : d ≠ c) :
    (track cfg b c r).1.skipped.get d = b.skipped.get d :=
  (track_skipped_get cfg b c d r).resolve_right fun ⟨hd, _⟩ => h hd

@[simp] theorem track_last_get (cfg : Config) (b : Block) (c d : SeqChan) (r : Byte) :
    (track cfg b c r).1.last.get d = if d = c then r else b.last.get d := PerSeq.get_set ..

section
variable {c : MsgChan} (s : State) (e : MessageEnd c)

theorem endMessage_serial : (s.endMessage e).block.rxq = s.block.rxq ∧ (s.endMessage e).block.fs = s.block.fs ∧
    (s.endMessage e).block.haveSync0 = s.block.haveSync0 ∧ (s.endMessage e).block.syncFailures = s.block.syncFailures := by
  cases e <;> exact ⟨rfl, rfl, rfl, rfl⟩

theorem endMessage_txCtr : (s.endMessage e).block.txCtr = s.block.txCtr := by
  cases e <;> rfl

theorem endMessage_boot : (s.endMessage e).block.bootBuf = s.block.bootBuf ∧
    (s.endMessage e).block.bootFill = s.block.bootFill ∧ (s.endMessage e).block.bootState = s.block.bootState := by
  cases e <;> exact ⟨rfl, rfl, rfl⟩

/-- Only an accepted packet of a sequenced channel runs a tracker, and it is the tracker of that channel. -/
theorem endMessage_tracker_of_ne {d : SeqChan} (h : d.toChan ≠ c.toChan) :
    (s.endMessage e).block.last.get d = s.block.last.get d ∧
      (s.endMessage e).block.haveLast.get d = s.block.haveLast.get d ∧
      (s.endMessage e).block.skipped.get d = s.block.skipped.get d := by
  cases e with
  | refused | invalid | corrupt | counted => exact ⟨rfl, rfl, rfl⟩
  | tracked d' hd' ctr payload =>
    have hne : d ≠ d' := fun heq => h (heq ▸ hd')
    simp only [State.endMessage, State.acceptTracked_block, track_last_get, track_haveLast_get,
      track_skipped_get_of_ne _ _ _ hne, if_neg hne, and_self]

theorem endMessage_counters_of_ne {d : Chan} (h : d ≠ c.toChan) :
    (s.endMessage e).block.accepted.get d = s.block.accepted.get d ∧
      (s.endMessage e).block.corrupted.get d = s.block.corrupted.get d := by
  cases e with
  | refused | invalid => exact ⟨rfl, rfl⟩
  | corrupt => exact ⟨rfl, (PerChan.get_set ..).trans (if_neg h)⟩
  | counted => exact ⟨(PerChan.get_set ..).trans (if_neg h), rfl⟩
  | tracked d' hd' => exact ⟨(track_accepted_get ..).trans (if_neg (hd' ▸ h)), rfl⟩

theorem endMessage_invalid_of_ne {d : MsgChan} (h : d ≠ c) :
    (s.endMessage e).block.invalid.get d = s.block.invalid.get d := by
  cases e with
  | refused | corrupt | tracked | counted => rfl
  | invalid => exact (PerMsg.get_set ..).trans (if_neg h)

end

/-- Settles O40: whichever way the decoder ends, it leaves each group of foreign registers as it was. -/
theorem messageChannelsDoNotInterfere : Obligations.MessageChannelsDoNotInterfere := by
  intro s t c msg hstep
  obtain ⟨e, rfl⟩ := step_decode_inversion hstep
  obtain ⟨hrxq, hfs, hflag, hfailures⟩ := endMessage_serial s e
  obtain ⟨hbuf, hfill, hstate⟩ := endMessage_boot s e
  exact ⟨hrxq, hfs, hflag, hfailures, endMessage_txCtr s e, hbuf, hfill, hstate, fun _ => endMessage_tracker_of_ne s e,
    fun _ => endMessage_counters_of_ne s e, fun _ => endMessage_invalid_of_ne s e⟩

/-- The gap is a function of the received number and of the channel's own `last` and `have_last` (R201). -/
theorem track_gap_congr {b b' : Block} {c : SeqChan} (cfg cfg' : Config) (r : Byte) (hlast : b.last.get c = b'.last.get c)
    (hhave : b.haveLast.get c = b'.haveLast.get c) : (track cfg b c r).2 = (track cfg' b' c r).2 := by
  simp only [track, hlast, hhave]

/-- Two states that agree on the tracker registers of channel `c` get the same answer from the same end of its decoder. -/
theorem endMessage_same_answer {c : MsgChan} {s s' : State} (e : MessageEnd c)
    (hagree : ∀ d : SeqChan, d.toChan = c.toChan → s.block.last.get d = s'.block.last.get d ∧
      s.block.haveLast.get d = s'.block.haveLast.get d) :
    ∃ r, (s.endMessage e).results = s.results ++ [r] ∧ (s'.endMessage e).results = s'.results ++ [r] := by
  cases e with
  | refused | invalid | corrupt | counted => exact ⟨_, rfl, rfl⟩
  | tracked d hd ctr payload =>
    obtain ⟨hlast, hhave⟩ := hagree d hd
    exact ⟨_, rfl, by rw [track_gap_congr s.cfg s'.cfg ctr hlast hhave]; rfl⟩

/-- Settles O41: both decoders end in the same way (`step_decode_ends`), and that end answers both alike. -/
theorem messageResultDependsOnOwnChannel : Obligations.MessageResultDependsOnOwnChannel := by
  intro s s' t t' c msg hcfg hagree hstep hstep'
  obtain ⟨e, hends⟩ := step_decode_ends s.cfg c msg
  have hnext := hstep.symm.trans (hends s rfl)
  have hnext' := hstep'.symm.trans (hends s' hcfg.symm)
  cases hnext
  cases hnext'
  obtain ⟨r, hanswer, hanswer'⟩ := endMessage_same_answer e hagree
  rw [hanswer, hanswer', List.drop_left, List.drop_left]

end Sys2Proof.Machine
end

section
/-! The sequence tracker (`43_sequence_tracker.md`): the counter and the forward distance as residues, `Track` register by register, and the
losses that a whole session counts. A counter in 1..M is `nextCtr u M` for some `u`, and on these `u` the sender's step adds 1. -/

namespace Sys2Proof.Machine

/-! ## The counter -/

@[simp] theorem nextCtr_self (m : Nat) : nextCtr m m = 1 := by
  simp [nextCtr]

/-- Every number in 1..M is a step of the counter. -/
theorem nextCtr_pred {m v : Nat} (hpos : 1 ≤ v) (hle : v ≤ m) : nextCtr (v - 1) m = v := by
  rw [nextCtr, Nat.mod_eq_of_lt (by omega), Nat.sub_add_cancel hpos]

theorem nextCtr_nextCtr (u m : Nat) : nextCtr (nextCtr u m) m = nextCtr (u + 1) m := by
  simp only [nextCtr, Nat.mod_add_mod]

/-- `k` more frames step the counter `k` times (R206). -/
theorem ctrAfter_nextCtr (m k u : Nat) : ctrAfter m k (nextCtr u m) = nextCtr (u + k) m := by
  induction k generalizing u with
  | zero => rfl
  | succ k ih => rw [ctrAfter, nextCtr_nextCtr, ih, Nat.add_right_comm, Nat.add_assoc]

/-- Settles O45: 1 is the step of 0, so the counter after `n` frames is the step of `n`. -/
theorem transmitCounterCycles : Obligations.TransmitCounterCycles :=
  ⟨fun c n => by simpa [nextCtr] using ctrAfter_nextCtr c.modulus n 0,
    fun c v => nextCtr_range v c,
    fun _ _ _ hlt => nextCtr_pred (Nat.le_add_left ..) hlt,
    fun _ => nextCtr_self _⟩

/-! ## The forward distance -/

section Distance
variable {m e r : Nat}

theorem forwardDistance_of_le (h : e ≤ r) : forwardDistance m e r = r - e := if_pos h

theorem forwardDistance_of_lt (h : r < e) : forwardDistance m e r = m - e + r := if_neg (Nat.not_le.mpr h)

/-- Without the test of R201 for `r ≠ expected` the distance would be the same: from a counter to itself it is 0. -/
theorem forwardDistance_unless_eq : (if r = e then 0 else forwardDistance m e r) = forwardDistance m e r := by
  split
  · next h => rw [h, forwardDistance_of_le le_rfl, Nat.sub_self]
  · rfl

/-- R203 (d) and (f): up to the modulus the two branches are one residue. -/
theorem forwardDistance_eq_mod (hpos : 1 ≤ e) (he : e ≤ m) (hr : r ≤ m) : forwardDistance m e r = (r + m - e) % m := by
  obtain hlt | hle := Nat.lt_or_ge r e
  · rw [forwardDistance_of_lt hlt, Nat.mod_eq_of_lt (by omega)]
    omega
  · rw [forwardDistance_of_le hle, Nat.sub_add_comm hle, Nat.add_mod_right, Nat.mod_eq_of_lt (by omega)]

/-- R207: the distance from the counter that follows `u` to the one `k` frames later is `k`, but for whole cycles. -/
theorem forwardDistance_nextCtr (hm : 0 < m) (u k : Nat) : forwardDistance m (nextCtr u m) (nextCtr (u + k) m) = k % m := by
  have hu := Nat.mod_lt u hm
  have hk := Nat.mod_lt k hm
  simp only [nextCtr, Nat.add_mod u k m]
  obtain hlt | hge := Nat.lt_or_ge (u % m + k % m) m
  · rw [Nat.mod_eq_of_lt hlt, forwardDistance_of_le (by omega)]
    omega
  · have hwrap : (u % m + k % m) % m = u % m + k % m - m := by
      rw [Nat.mod_eq_sub_mod hge, Nat.mod_eq_of_lt (by omega)]
    rw [hwrap, forwardDistance_of_lt (by omega)]
    omega

/-- R203 (d): the residue from the last counter, which is 1 before the expected one or, at the wrap, `m - 1` after it. -/
theorem residue_from_last {l : Nat} (hle : l ≤ m) : (r + m - nextCtr l m) % m = (r + m + m - l - 1) % m := by
  obtain rfl | hlt := hle.eq_or_lt
  · rw [nextCtr_self, Nat.add_sub_cancel]
  · have hnext : nextCtr l m = l + 1 := nextCtr_pred (Nat.le_add_left ..) hlt
    rw [hnext, show r + m + m - l - 1 = r + m - (l + 1) + m by omega, Nat.add_mod_right]

end Distance

/-- The `k` frames before the accepted one are what `Track` finds missing (R207). -/
theorem forwardDistance_ctrAfter {m v : Nat} (hpos : 1 ≤ v) (hle : v ≤ m) (k : Nat) :
    forwardDistance m v (ctrAfter m k v) = k % m := by
  have hdistance := forwardDistance_nextCtr (hpos.trans hle) (v - 1) k
  rwa [← ctrAfter_nextCtr, nextCtr_pred hpos hle] at hdistance

/-- Settles O44, by the side of the expected counter on which the received one lies. -/
theorem gapArithmetic : Obligations.GapArithmetic := by
  intro c l r m e gap
  obtain ⟨he_pos, he_le⟩ : 1 ≤ e ∧ e ≤ m := nextCtr_range l.toNat c
  have hm : 60 ≤ m ∧ m ≤ 255 := modulus_le c
  have hr : r.toNat < 256 := r.isLt
  have hgap : gap = forwardDistance m e r.toNat := forwardDistance_unless_eq
  have above : e ≤ r.toNat → gap = r.toNat - e := fun h => hgap.trans (forwardDistance_of_le h)
  have below : r.toNat < e → gap = m - e + r.toNat := fun h => hgap.trans (forwardDistance_of_lt h)
  have residue : r.toNat ≤ m → gap = (r.toNat + m - e) % m := fun h => hgap.trans (forwardDistance_eq_mod he_pos he_le h)
  clear_value gap
  refine ⟨⟨he_pos, he_le⟩, fun hle _ => ⟨above hle, ?_⟩, fun hlt => ⟨below hlt, ?_⟩,
    fun _ hl_le _ hr_le => ⟨residue hr_le, (residue hr_le).trans (residue_from_last hl_le), ?_⟩, ?_, residue,
    fun hout => above (by omega)⟩ <;> omega

/-! ## `Track` -/

theorem satInc_of_le {cfg : Config} {r n : Nat} (h : r + n ≤ cfg.counterTop) : satInc cfg r n = r + n := Nat.min_eq_left h

section Track
variable (cfg : Config) (b : Block) (c : SeqChan) (r : Byte)

theorem track_gap :
    (track cfg b c r).2 =
      if b.haveLast.get c = true ∧ r.toNat ≠ nextCtr (b.last.get c).toNat c.modulus
      then forwardDistance c.modulus (nextCtr (b.last.get c).toNat c.modulus) r.toNat else 0 := by
  simp only [track, Bool.and_eq_true, bne_iff_ne]

theorem track_skipped :
    (track cfg b c r).1.skipped =
      if b.haveLast.get c = true ∧ r.toNat ≠ nextCtr (b.last.get c).toNat c.modulus
      then b.skipped.set c (satInc cfg (b.skipped.get c) (track cfg b c r).2) else b.skipped := by
  simp only [track, Bool.and_eq_true, bne_iff_ne]

end Track

/-- Settles O43: each register by its own lemma; the modulus of each channel is a literal. -/
theorem trackFollowsTheRule : Obligations.TrackFollowsTheRule := by
  intro cfg b c r
  rw [track_frame, track_skipped, track_gap]
  cases c <;> exact ⟨rfl, rfl⟩

/-! ## A session with losses -/

/-- Between two frames of a session: the tracker of channel `c` runs and the counter next in sequence is `v`. -/
def Expects (b : Block) (c : SeqChan) (v : Nat) : Prop :=
  b.haveLast.get c = true ∧ nextCtr (b.last.get c).toNat c.modulus = v

theorem ctrAfter_range {c : SeqChan} {v : Nat} (hpos : 1 ≤ v) (hle : v ≤ c.modulus) (k : Nat) :
    1 ≤ ctrAfter c.modulus k v ∧ ctrAfter c.modulus k v ≤ c.modulus := by
  rw [← nextCtr_pred hpos hle, ctrAfter_nextCtr]
  exact nextCtr_range _ c

section Session
variable {b : Block} {c : SeqChan} {v : Nat}

theorem Expects.range (h : Expects b c v) : 1 ≤ v ∧ v ≤ c.modulus := h.2 ▸ nextCtr_range _ c

theorem track_expects (cfg : Config) (b : Block) (c : SeqChan) (r : Byte) :
    Expects (track cfg b c r).1 c (nextCtr r.toNat c.modulus) := by
  simp [Expects]

theorem track_gap_of_expects (cfg : Config) (h : Expects b c v) (r : Byte) :
    (track cfg b c r).2 = forwardDistance c.modulus v r.toNat := by
  obtain ⟨hhave, rfl⟩ := h
  rw [track_gap]
  split
  · rfl
  · next hmissed =>
    have hsame : r.toNat = nextCtr (b.last.get c).toNat c.modulus := by simpa [hhave] using hmissed
    rw [← forwardDistance_unless_eq, if_pos hsame]

theorem track_gap_of_untracked (cfg : Config) (h : b.haveLast.get c = false) (r : Byte) : (track cfg b c r).2 = 0 := by
  simp [track_gap, h]

/-- Short of saturation `Track` counts the frame and adds the gap, which is 0 where `skipped` is not written. -/
theorem track_counts_of_le (cfg : Config) (b : Block) (c : SeqChan) (r : Byte)
    (haccepted : b.accepted.get c.toChan + 1 ≤ cfg.counterTop)
    (hskipped : b.skipped.get c + (track cfg b c r).2 ≤ cfg.counterTop) :
    (track cfg b c r).1.accepted.get c.toChan = b.accepted.get c.toChan + 1 ∧
      (track cfg b c r).1.skipped.get c = b.skipped.get c + (track cfg b c r).2 := by
  constructor
  · rw [track_accepted_get, if_pos rfl, satInc_of_le haccepted]
  · rw [track_skipped]
    split
    · rw [PerSeq.get_set, if_pos rfl, satInc_of_le hskipped]
    · next hmissed => rw [track_gap, if_neg hmissed, Nat.add_zero]

/-- One accepted frame of a session: a counter in 1..M fits the byte that carries it. -/
theorem lossySession_cons (cfg : Config) (b : Block) (hpos : 1 ≤ v) (hle : v ≤ c.modulus) (k : Nat) (ks : List Nat) :
    ∃ r : Byte, r.toNat = ctrAfter c.modulus k v ∧
      lossySession cfg c v (k :: ks) b = lossySession cfg c (nextCtr r.toNat c.modulus) ks (track cfg b c r).1 := by
  have hctr := ctrAfter_range hpos hle k
  have hm := modulus_le c
  have hbyte : (BitVec.ofNat 8 (ctrAfter c.modulus k v)).toNat = ctrAfter c.modulus k v := by
    rw [BitVec.toNat_ofNat, Nat.mod_eq_of_lt (by omega)]
  exact ⟨_, hbyte, by rw [hbyte]; rfl⟩

/-- From the second frame on, every accepted frame adds its losses (R207), by induction on the frames. -/
theorem lossySession_counts_of_expects (cfg : Config) (ks : List Nat) (h : Expects b c v)
    (haccepted : b.accepted.get c.toChan + ks.length ≤ cfg.counterTop)
    (hskipped : b.skipped.get c + (ks.map (· % c.modulus)).sum ≤ cfg.counterTop) :
    (lossySession cfg c v ks b).accepted.get c.toChan = b.accepted.get c.toChan + ks.length ∧
      (lossySession cfg c v ks b).skipped.get c = b.skipped.get c + (ks.map (· % c.modulus)).sum := by
  induction ks generalizing b v with
  | nil => exact ⟨rfl, rfl⟩
  | cons k ks ih =>
    obtain ⟨hpos, hle⟩ := h.range
    obtain ⟨r, hr, hsession⟩ := lossySession_cons cfg b hpos hle k ks
    have hgap : (track cfg b c r).2 = k % c.modulus := by
      rw [track_gap_of_expects cfg h, hr, forwardDistance_ctrAfter hpos hle]
    rw [List.length_cons] at haccepted ⊢
    rw [List.map_cons, List.sum_cons] at hskipped ⊢
    obtain ⟨hcounted, hadded⟩ := track_counts_of_le cfg b c r (by omega) (by omega)
    obtain ⟨hcounted_rest, hadded_rest⟩ := ih (track_expects cfg b c r) (by omega) (by omega)
    rw [hsession]
    omega

end Session

/-- Settles O46: the first frame finds no earlier one, so its gap is 0; from the second on the receiver is in step with the sender. -/
theorem sessionCountsLosses : Obligations.SessionCountsLosses := by
  intro cfg c v ks b huntracked hpos hle haccepted hskipped
  cases ks with
  | nil => exact ⟨rfl, rfl⟩
  | cons k ks =>
    obtain ⟨r, -, hsession⟩ := lossySession_cons cfg b hpos hle k ks
    have hgap : (track cfg b c r).2 = 0 := track_gap_of_untracked cfg huntracked r
    change _ ≤ cfg.counterTop at haccepted hskipped
    rw [List.length_cons] at haccepted ⊢
    rw [List.tail_cons] at hskipped ⊢
    obtain ⟨hcounted, hadded⟩ := track_counts_of_le cfg b c r (by omega) (by omega)
    obtain ⟨hcounted_rest, hadded_rest⟩ :=
      lossySession_counts_of_expects cfg ks (track_expects cfg b c r) (by omega) (by omega)
    rw [hsession]
    omega

end Sys2Proof.Machine
end

section
/-! The bootstrap of the link (`44_link_bootstrap.md`): the encoder, the accumulation and its two ends, the meaning of a whole packet, and
the terminal states. A poll is decided by the bytes it moves from the queue to the buffer (`accumulate_of_append`). -/

namespace Sys2Proof.Machine

/-! ## The accumulation buffer -/

/-- A stored stretch replaces the bytes of the buffer from its fill on, and no others (R223). -/
theorem byteAt_storeAt {buf bytes : List Byte} {fill : Nat} (hfit : fill + bytes.length ≤ buf.length) (j : Nat) :
    byteAt (storeAt buf fill bytes) j =
      if fill ≤ j ∧ j < fill + bytes.length then byteAt bytes (j - fill) else byteAt buf j := by
  have hhead : (buf.take fill).length = fill := List.length_take_of_le (by omega)
  simp only [byteAt, storeAt, List.getD_eq_getElem?_getD]
  by_cases hbefore : j < fill
  · rw [if_neg (by omega), List.append_assoc, List.getElem?_append_left (by omega), List.getElem?_take_of_lt hbefore]
  by_cases hin : j < fill + bytes.length
  · rw [if_pos ⟨by omega, hin⟩, List.append_assoc, List.getElem?_append_right (by omega), hhead,
      List.getElem?_append_left (by omega)]
  · have hstored : (buf.take fill ++ bytes).length = fill + bytes.length := by rw [List.length_append, hhead]
    rw [if_neg (by omega), List.getElem?_append_right (by omega), hstored, List.getElem?_drop,
      Nat.add_sub_cancel' (Nat.le_of_not_lt hin)]

/-- The bytes still missing complete the buffer. -/
theorem storeAt_to_end {buf bytes : List Byte} {fill : Nat} (hend : fill + bytes.length = buf.length) :
    storeAt buf fill bytes = buf.take fill ++ bytes := by
  rw [storeAt, hend, List.drop_length, List.append_nil]

/-- The accumulation takes the first `bytes` of the queue, if they are as many as it may take, and leaves the rest queued (R223). -/
theorem accumulate_of_append {b : Block} {bytes q : List Byte} (hq : b.rxq = bytes ++ q)
    (hcount : min b.rxq.length (bootLen - b.bootFill) = bytes.length) :
    accumulate b =
      { b with rxq := q, bootBuf := storeAt b.bootBuf b.bootFill bytes, bootFill := b.bootFill + bytes.length } := by
  simp only [accumulate, Block.qLen_eq, hcount, Block.qPopN_of_append hq rfl]

/-! ## `BOOT_POLL` while waiting -/

theorem step_request_bootPoll (s : State) : step (s.request .bootPoll) = performBootPoll s := rfl

theorem performBootPoll_of_incomplete {s : State} {b : Block} (hwait : s.block.bootState = .wait)
    (hacc : accumulate s.block = b) (hmissing : b.bootFill < bootLen) :
    performBootPoll s = .next (s.complete b (.boot (.pending b.bootFill))) := by
  simp only [performBootPoll, hwait, hacc, if_pos hmissing]

/-- Settles O47: fewer bytes than are missing are there, so all of them are stored behind the earlier ones and the queue is empty. -/
theorem bootPollAccumulates : Obligations.BootPollAccumulates := by
  intro s hwait hmissing hbuf
  have hacc := accumulate_of_append (b := s.block) (List.append_nil _).symm (Nat.min_eq_left (Nat.le_sub_of_add_le' hmissing.le))
  refine ⟨storeAt s.block.bootBuf s.block.bootFill s.block.rxq, ?_, byteAt_storeAt (by omega), ?_⟩
  · rw [storeAt_length _ _ _ (by omega), hbuf]
  · exact (step_request_bootPoll s).trans (performBootPoll_of_incomplete hwait hacc hmissing)

/-- Settles O48: the missing bytes complete the buffer, and its first two bytes decide between the packet's meaning and the sync failure. -/
theorem stepRunsBootPacket : Obligations.StepRunsBootPacket := by
  intro s missing tail hwait hbuf hq hfull buf b
  have hcount : min s.block.rxq.length (bootLen - s.block.bootFill) = missing.length := by
    have hspace : bootLen - s.block.bootFill = missing.length := Nat.sub_eq_of_eq_add' hfull.symm
    rw [hspace, hq, List.length_append, Nat.min_eq_right (Nat.le_add_right ..)]
  have hacc : accumulate s.block = b := by
    rw [accumulate_of_append hq hcount, storeAt_to_end (hfull.trans hbuf.symm), hfull]
  rw [Performs, step_request_bootPoll]
  constructor
  · intro i hdecode
    exact performBootPoll_of_whole_packet hwait hacc rfl hdecode
  · intro hsync
    have hlen : buf.length = PacketType.boot.length := by
      rw [List.length_append, List.length_take_of_le (by omega)]; exact hfull
    have hdecode : PacketType.boot.decode buf = .rejected .wrongStart :=
      decode_of_wrong_start hlen (mt (PacketType.startFits_iff ..).mp hsync)
    exact performBootPoll_of_wrong_sync hwait hacc rfl hdecode

/-! ## The encoder, and the meaning of its packet -/

/-- The wire bytes of a 16-bit field, without the second `mod 256` of R9: a byte keeps only its low eight bits. -/
theorem store16_eq (v : U16) : store16 v = [BitVec.ofNat 8 (v.toNat % 256), BitVec.ofNat 8 (v.toNat / 256)] := by
  obtain ⟨-, hbytes, -⟩ := fieldsAreLittleEndian
  obtain ⟨hlo, hhi, -⟩ := hbytes v
  rw [store16, hlo, hhi]

/-- Settles O21: arrays of the stated sizes are a request that can be expressed, and the block is the one it found. -/
theorem encBootResult : Obligations.EncBootResult := by
  intro s ssid password ip ledPort buttonPort hssid hpassword hip body
  have hexpressible : (Operation.encBoot ssid password ip ledPort buttonPort).expressible s.cfg = true := by
    simp [Operation.expressible, hssid, hpassword, hip]
  have hpack : packBoot ssid password ip ledPort buttonPort = sealPacket body := by
    simp only [packBoot, store16_eq, body, List.append_assoc, List.cons_append, List.nil_append]
  calc step (s.request (.encBoot ssid password ip ledPort buttonPort))
      = .next (s.complete s.block (.packet (packBoot ssid password ip ledPort buttonPort))) := if_pos hexpressible
    _ = _ := by rw [hpack]; rfl

/-- Settles O49, by the two outcomes of the CRC check. -/
theorem bootPacketValidated : Obligations.BootPacketValidated := by
  intro ssid password ip ledPort buttonPort crc s body
  have hcheck : crcMatches (encode (.boot ssid password ip ledPort buttonPort crc)) = true ↔ crc8 body = crc :=
    crcMatches_encode_iff _
  exact ⟨fun hcrc => if_pos (hcheck.mpr hcrc), fun hcrc => if_neg (mt hcheck.mp hcrc)⟩

/-! ## The timeout and the terminal states -/

theorem step_request_bootTimeout (s : State) : step (s.request .bootTimeout) = .next (performBootTimeout s) := rfl

/-- Settles O50, by cases on `boot_state`: waiting, done, failed. -/
theorem bootTimeoutAndTerminalPolls : Obligations.BootTimeoutAndTerminalPolls := by
  intro s
  simp only [Performs, step_request_bootTimeout, step_request_bootPoll, performBootTimeout, performBootPoll]
  refine ⟨fun hwait => ?_, fun hdone => ?_, fun why hfailed => ?_⟩
  · rw [hwait]; rfl
  · rw [hdone]; exact ⟨rfl, rfl⟩
  · rw [hfailed]; exact ⟨rfl, rfl⟩

theorem searchPhase_boot (cfg : Config) (b : Block) :
    (searchPhase cfg b).1.bootState = b.bootState ∧ (searchPhase cfg b).1.bootBuf = b.bootBuf ∧
      (searchPhase cfg b).1.bootFill = b.bootFill := by
  rw [searchPhase_frame]
  exact ⟨rfl, rfl, rfl⟩

/-- Every move that writes a bootstrap register, but the reset, starts in WAIT (R226). -/
theorem Move.keeps_terminal_boot {cfg : Config} {b b' : Block} {op : Operation} (hmove : Move cfg b op b')
    (hterminal : b.bootState.terminal = true) (hop : op ≠ .reset) :
    b'.bootState = b.bootState ∧ b'.bootBuf = b.bootBuf ∧ b'.bootFill = b.bootFill := by
  cases hmove with
  | reset => exact absurd rfl hop
  | bootPending hwait | bootFailed hwait | bootDone hwait | bootTimeout hwait =>
    rw [hwait] at hterminal
    cases hterminal
  | searchEmpty | searchFailed | incomplete | frameAccepted | frameCorrupt => exact searchPhase_boot cfg b
  | keep | encLeds | encLedd | encParam | push | messageInvalid | messageCorrupt | leddAccepted | paramAccepted | btnAccepted =>
    exact ⟨rfl, rfl, rfl⟩

/-- Settles O51, by the moves a step can make (`Move.keeps_terminal_boot`). -/
theorem terminalBootStateIsSticky : Obligations.TerminalBootStateIsSticky := by
  intro s t hterminal hnoReset hstep
  obtain ⟨-, hsame | ⟨op, hhead, hmove⟩⟩ := step_moves_block hstep
  · rw [hsame]; exact ⟨rfl, rfl, rfl⟩
  · exact hmove.keeps_terminal_boot hterminal fun hreset => hnoReset (hreset ▸ hhead)

end Sys2Proof.Machine
end

section
/-! The system operations (`45_system_ops.md`): the status read. -/

namespace Sys2Proof.Machine

theorem step_request_statRead (s : State) (name : StatName) :
    step (s.request (.statRead name)) = .next (performStatRead name s) := rfl

/-- R241, once for every item: a status name is always a request the interface can express, and reading it returns `Block.readItem`
and leaves the block as it was. -/
theorem performs_statRead (s : State) (name : StatName) :
    Performs s (.statRead name) s.block (.stat (s.block.readItem name)) :=
  step_request_statRead s name

/-- Settles O54: `performs_statRead` at each of the thirteen kinds of item, with that item's row of `Block.readItem`. -/
theorem statReadReturnsTheItem : Obligations.StatReadReturnsTheItem := by
  intro s _
  have read := performs_statRead s
  exact ⟨read .syncFailures, fun c => read (.accepted c), fun c => read (.corrupted c), fun c => read (.skipped c),
    fun c => read (.last c), fun c => read (.haveLast c), fun c => read (.txCtr c), fun c => read (.invalid c),
    read .fs, read .haveSync0, read .rxqLen, read .bootState, read .bootFill⟩

end Sys2Proof.Machine
end

section
/-! Hazards (`70_reset_and_hazards.md`): the block's own bound on the work of one `RECV_LEDS` (R286). -/

namespace Sys2Proof.Machine

/-- `searchPhase_removes`, counted in bytes. -/
theorem length_le_searchPhase (cfg : Config) (b : Block) :
    b.rxq.length ≤ (searchPhase cfg b).1.rxq.length + (cfg.searchBudget + 1) := by
  obtain ⟨k, hdrop, hbudget, -⟩ := searchPhase_removes cfg b
  rw [hdrop, List.length_drop]
  omega

/-- With the payload taken, 198 bytes more than the searching phase removes (R145). -/
theorem length_le_afterPayload (cfg : Config) (b : Block) :
    b.rxq.length ≤ (afterPayload cfg b).rxq.length + (cfg.searchBudget + 1 + readLen) := by
  have hsearch := length_le_searchPhase cfg b
  rw [afterPayload, List.length_drop]
  omega

/-- The ends of a `RECV_LEDS`: it stops at its search, or takes the payload too, and neither counting nor tracking touches the queue. -/
theorem Move.recvLeds_removes_le {cfg : Config} {b b' : Block} {op : Operation} (hmove : Move cfg b op b')
    (hop : op = .recvLeds) : b.rxq.length ≤ b'.rxq.length + (cfg.searchBudget + 1 + readLen) := by
  cases hmove with
  | searchEmpty | incomplete | searchFailed =>
    exact (length_le_searchPhase cfg b).trans (Nat.add_le_add_left (Nat.le_add_right ..) _)
  | frameAccepted | frameCorrupt => exact length_le_afterPayload cfg b
  | keep => exact Nat.le_add_right ..
  | messageInvalid c | messageCorrupt c => cases c <;> cases hop
  | reset | encLeds | encLedd | encParam | push | leddAccepted | paramAccepted | btnAccepted | bootPending | bootFailed |
    bootDone | bootTimeout => cases hop

/-- Settles O29, by the moves a `RECV_LEDS` can make (`Move.recvLeds_removes_le`). -/
theorem recvLedsWorkIsBounded : Obligations.RecvLedsWorkIsBounded := by
  intro s t hstep
  obtain ⟨b, r, hmove, hnext⟩ := step_completes_of_pending (s.request .recvLeds) .recvLeds s.pending rfl
  obtain rfl := Host.Outcome.next.inj (hstep.symm.trans hnext)
  exact hmove.recvLeds_removes_le rfl

end Sys2Proof.Machine
end

section
/-! Requests that the interface cannot express (`93_implementation_defined.md` U8; log entry 4). -/

namespace Sys2Proof.Machine

/-- U8, at the interface: a request that cannot be expressed never reaches `performOperation`. -/
theorem perform_of_not_expressible {op : Operation} {s : State} (hrefused : op.expressible s.cfg = false) :
    perform op s = .next (refuseRequest s) := by
  rw [perform, hrefused, if_neg Bool.false_ne_true]

/-- Settles O55: the request is refused at the interface, and a refusal completes with the block it found. -/
theorem inexpressibleRequestsAreRefused : Obligations.InexpressibleRequestsAreRefused := by
  intro s op hrefused
  calc step (s.request op)
      = perform op s := step_request s op
    _ = .next (refuseRequest s) := perform_of_not_expressible hrefused
    _ = _ := by rw [refuseRequest, State.complete]

end Sys2Proof.Machine
end
